-- ==== Sys2Proof/Word.lean ====
section
/-! DEFINITION. The words of the block (spec/00_scope.md R9) and the triple, the shape of every three-axis register. -/

namespace Sys2Proof

/-- One byte of the bus (R9, R40). -/
abbrev Byte := BitVec 8

/-- A 32-bit word: the operand of a command, a result word, a time in milliseconds. -/
abbrev Word := BitVec 32

/-- The command word `CW[39:0]` (30_encoding.md R61). -/
abbrev CommandWord := BitVec 40

/-- Three like things, indexed 0, 1, 2 as the spec indexes word axes and output slots. -/
structure Tri (α : Type) where
  c0 : α
  c1 : α
  c2 : α
deriving DecidableEq, Repr

/-- The same function on each of the three. -/
def Tri.map {α β : Type} (f : α → β) (t : Tri α) : Tri β := ⟨f t.c0, f t.c1, f t.c2⟩

/-- A function of two triples, slot by slot. -/
def Tri.zip {α β γ : Type} (f : α → β → γ) (t : Tri α) (u : Tri β) : Tri γ := ⟨f t.c0 u.c0, f t.c1 u.c1, f t.c2 u.c2⟩

/-- The slot with index `i`. -/
def Tri.get {α : Type} (t : Tri α) (i : Fin 3) : α :=
  match i with
  | 0 => t.c0
  | 1 => t.c1
  | 2 => t.c2

end Sys2Proof
end

