-- ==== Sys2Proof/Config.lean ====
section
/-! DEFINITION. The configuration record (00_scope.md R8): what the spec leaves to an implementation, as plain data, and the
free values: what the spec leaves to the environment or without a value. The defaults of R8 are `Machine.defaultConfig`. -/

namespace Sys2Proof

/-- `DEVCFG`: sensor register addresses and command values (20_memory.md R44, D24). -/
structure DevCfg where
  regId : Byte
  regCmd : Byte
  regConf : Byte
  regIntrvl : Byte
  regOffs : Tri Byte
  regAvr : Byte
  regHck : Byte
  regLck : Byte
  regSrst : Byte
  regTrim : Vector Byte 12
  regOcr : Byte
  regData : Byte
  regCal : Byte
  valSrst : Byte
  valCmdStart : Byte
  valCmdLdtc : Byte
  valCmdFors : Byte
  valCmdCont : Byte
  valConfRcoil : Byte
deriving DecidableEq, Repr

/-- `CAL_LAYOUT`: for each of the nine version-1 fields, the bits of the 72-bit string S it is made of, bit 0 of the field first
(30_encoding.md R66, D5). The bits of a field may stand anywhere in S, next to each other or apart, and fields may share bits;
the widths are fixed by the biases (R67; log 13). -/
structure CalLayout where
  a2 : Vector (Fin 72) 7
  a3 : Vector (Fin 72) 7
  a4 : Vector (Fin 72) 8
  a5 : Vector (Fin 72) 9
  a6 : Vector (Fin 72) 7
  a7 : Vector (Fin 72) 8
  a8 : Vector (Fin 72) 7
  a9 : Vector (Fin 72) 9
  k : Vector (Fin 72) 7
deriving DecidableEq, Repr

/-- The configuration record of R8. A field holds the parameter of the same name. -/
structure Config where
  /-- `HAS_CLOCK`: both values are supported (R8). -/
  hasClock : Bool
  /-- `INITCOIL_TIMEOUT_MS`. -/
  initCoilTimeoutMs : Nat
  /-- `LAT_US[0..3]`. -/
  latUs : Vector Nat 4
  /-- `DELAY_DEFAULT`. -/
  delayDefault : Word
  /-- `AVG_DEFAULT`. -/
  avgDefault : BitVec 2
  /-- `POS_DEFAULT`. -/
  posDefault : BitVec 3
  /-- `BASE_RESET[0..2]`. -/
  baseReset : Tri (BitVec 14)
  /-- `A1_CONST`. -/
  a1Const : Int
  /-- `SENS_VCORE`. -/
  sensVcore : Nat
  /-- `CHIP_ID`. -/
  chipId : Byte
  /-- `T_RESET_US`. -/
  tResetUs : Nat
  /-- `ORIENT[0..7]`: each matrix as its three rows. -/
  orient : Vector (Tri (Tri Int)) 8
  /-- `CAL_LAYOUT`. -/
  calLayout : CalLayout
  /-- `DEVCFG`. -/
  dev : DevCfg
  /-- `AVR_CODE[0..3]`. -/
  avrCode : Vector Byte 4
  /-- `INTERVAL_CODE`: the pairs (DELAY, AVG) whose code is not the default `min(255, d)`, with their codes. -/
  intervalOverrides : List ((Word × BitVec 2) × Byte)
deriving DecidableEq, Repr

/-- FREE VALUE: whether the environment answers the transaction with this number with success, where State scripts no
answer (20_memory.md R46, U12). Nothing constrains it (log 3). -/
opaque Config.busOk (draw : Nat) : Bool

/-- FREE VALUE: byte `i` of the data the environment answers the transaction with this number with, where State scripts no
such byte (R42, R46, U12; log 3). -/
opaque Config.busByte (draw i : Nat) : Byte

/-- FREE VALUE: what `Now()` answers the call with this number, where State scripts no answer (R236, U13; log 3, 14). -/
opaque Config.clockMs (draw : Nat) : Word

/-- FREE VALUE: what coefficient register `i` holds after the version-0 commit with this number, which leaves it without a
value (40_calibration_decoder.md R94, D8; log 9). -/
opaque Config.noValue (draw i : Nat) : BitVec 16

end Sys2Proof
end

