-- ==== Sys2Proof/Syntax.lean ====
section
/-! DEFINITION. The sixteen host commands, one constructor per row of spec/opcode_table.json (30_encoding.md R63, R64). -/

namespace Sys2Proof

/-- A host command with its operand. The four that take an operand carry the whole 32-bit `arg` of the command word; the
others ignore `arg` (R74 (c)), and the EXT sub-commands are named by it (R64), so they carry none. An operand outside its
legal range is still a command: it answers `InvalidArgument` (R74 (d)). -/
inductive Instr where
  /-- INIT, op 0x01 (R182). -/
  | init
  /-- TERM, op 0x02 (R183). -/
  | term
  /-- SET_ENABLE, op 0x03: 0 disables, any other value enables (R184). -/
  | setEnable (arg : Word)
  /-- GET_ENABLE, op 0x04 (R188). -/
  | getEnable
  /-- SET_DELAY, op 0x05: milliseconds (R189). -/
  | setDelay (arg : Word)
  /-- GET_DELAY, op 0x06 (R190). -/
  | getDelay
  /-- SET_POSITION, op 0x07: a mounting position (R191). -/
  | setPosition (arg : Word)
  /-- GET_POSITION, op 0x08 (R192). -/
  | getPosition
  /-- SET_AVERAGING, op 0x09: an averaging level (R193). -/
  | setAveraging (arg : Word)
  /-- GET_AVERAGING, op 0x0A (R194). -/
  | getAveraging
  /-- MEASURE, op 0x0B (R197). -/
  | measure
  /-- EXT_SELF_TEST, op 0x0C, arg 1 (R160). -/
  | extSelfTest
  /-- EXT_SENSITIVITY, op 0x0C, arg 2 (R162). -/
  | extSensitivity
  /-- EXT_NOISE_TEST, op 0x0C, arg 3 (R165). -/
  | extNoiseTest
  /-- EXT_GET_RAW, op 0x0C, arg 4 (R199). -/
  | extGetRaw
  /-- EXT_GET_HW_OFFSET, op 0x0C, arg 5 (R200). -/
  | extGetHwOffset
deriving DecidableEq, Repr

end Sys2Proof
end

