-- ==== Sys2Proof/WellFormed.lean ====
section
/-! DEFINITION. Well-formed commands and well-formed configuration records. -/

namespace Sys2Proof

/-- Every command with a 32-bit operand has an encoding (R61), so the type already holds every check an encoding needs; an
operand outside its legal range is a well-formed command that answers `InvalidArgument` (R74 (d)). -/
def Instr.wf : Instr → Bool
  | .init | .term | .setEnable _ | .getEnable | .setDelay _ | .getDelay | .setPosition _ | .getPosition
  | .setAveraging _ | .getAveraging | .measure | .extSelfTest | .extSensitivity | .extNoiseTest | .extGetRaw
  | .extGetHwOffset => true

/-- A row or a column with exactly one non-zero entry, `1` or `-1` (42_coordinate_quantizer.md R127). -/
def Tri.isSignedUnit (t : Tri Int) : Bool :=
  (t.c0.natAbs == 1 && t.c1 == 0 && t.c2 == 0) || (t.c0 == 0 && t.c1.natAbs == 1 && t.c2 == 0)
    || (t.c0 == 0 && t.c1 == 0 && t.c2.natAbs == 1)

/-- A signed permutation matrix: all a model may rely on of an `ORIENT` entry (R127). -/
def isSignedPermutation (m : Tri (Tri Int)) : Bool :=
  m.c0.isSignedUnit && m.c1.isSignedUnit && m.c2.isSignedUnit
    && (Tri.mk m.c0.c0 m.c1.c0 m.c2.c0).isSignedUnit && (Tri.mk m.c0.c1 m.c1.c1 m.c2.c1).isSignedUnit
    && (Tri.mk m.c0.c2 m.c1.c2 m.c2.c2).isSignedUnit

/-- The identity matrix, `ORIENT[2]` (R124, R127). -/
def identityMatrix : Tri (Tri Int) := ⟨⟨1, 0, 0⟩, ⟨0, 1, 0⟩, ⟨0, 0, 1⟩⟩

/-- What the spec asks of a configuration record: `ORIENT` holds signed permutations with the identity at 2 (R127), the
divisor `SENS_VCORE` is positive (R9, R163), `DELAY_DEFAULT` is a legal delay (R13), and `A1_CONST` fits the 10 signed bits of
the other diagonal entries (R22), so that no accumulator leaves 32 bits (log 12). -/
def Config.wf (c : Config) : Bool :=
  c.orient.all isSignedPermutation && c.orient[2] == identityMatrix && decide (0 < c.sensVcore)
    && decide (c.delayDefault.toNat < 2 ^ 31) && decide (-512 ≤ c.a1Const) && decide (c.a1Const ≤ 511)

end Sys2Proof
end

