-- ==== Sys2Proof/Decode.lean ====
section
/-! DEFINITION. The decoder of command words, total on all 2^40 (30_encoding.md R79), and the encoder (R77). -/

namespace Sys2Proof

/-- What the decoder reads from a command word. -/
inductive Decoded where
  /-- A command of R63 or R64. -/
  | command (i : Instr)
  /-- `op` is 0x00 or at least 0x0D: illegal in every mode (R74 (a)). -/
  | illegalOpcode (op : Byte)
  /-- `op` is 0x0C and `arg` is outside 1..5: no sub-command (R74 (b)). -/
  | illegalExt (arg : Word)
deriving DecidableEq, Repr

/-- `op = CW[39:32]` (R61). -/
def opField (w : CommandWord) : Byte := w.extractLsb' 32 8

/-- `arg = CW[31:0]` (R61). -/
def argField (w : CommandWord) : Word := w.extractLsb' 0 32

/-- The EXT sub-command with number `arg` (R64). -/
def decodeExt (arg : Word) : Decoded :=
  if arg = 1#32 then .command .extSelfTest
  else if arg = 2#32 then .command .extSensitivity
  else if arg = 3#32 then .command .extNoiseTest
  else if arg = 4#32 then .command .extGetRaw
  else if arg = 5#32 then .command .extGetHwOffset
  else .illegalExt arg

/-- The command map of R63, as R79 reads it: `op` first, then `arg` for EXT. -/
def decode (w : CommandWord) : Decoded :=
  if opField w = 0x01#8 then .command .init
  else if opField w = 0x02#8 then .command .term
  else if opField w = 0x03#8 then .command (.setEnable (argField w))
  else if opField w = 0x04#8 then .command .getEnable
  else if opField w = 0x05#8 then .command (.setDelay (argField w))
  else if opField w = 0x06#8 then .command .getDelay
  else if opField w = 0x07#8 then .command (.setPosition (argField w))
  else if opField w = 0x08#8 then .command .getPosition
  else if opField w = 0x09#8 then .command (.setAveraging (argField w))
  else if opField w = 0x0A#8 then .command .getAveraging
  else if opField w = 0x0B#8 then .command .measure
  else if opField w = 0x0C#8 then decodeExt (argField w)
  else .illegalOpcode (opField w)

/-- The opcode of a command (R63). -/
def opcodeOf : Instr → Byte
  | .init => 0x01
  | .term => 0x02
  | .setEnable _ => 0x03
  | .getEnable => 0x04
  | .setDelay _ => 0x05
  | .getDelay => 0x06
  | .setPosition _ => 0x07
  | .getPosition => 0x08
  | .setAveraging _ => 0x09
  | .getAveraging => 0x0A
  | .measure => 0x0B
  | .extSelfTest | .extSensitivity | .extNoiseTest | .extGetRaw | .extGetHwOffset => 0x0C

/-- The `arg` the assembler emits: the operand, the sub-command number of EXT (R64), else 0 (R77). -/
def encodedArg : Instr → Word
  | .setEnable a | .setDelay a | .setPosition a | .setAveraging a => a
  | .extSelfTest => 1
  | .extSensitivity => 2
  | .extNoiseTest => 3
  | .extGetRaw => 4
  | .extGetHwOffset => 5
  | .init | .term | .getEnable | .getDelay | .getPosition | .getAveraging | .measure => 0

/-- `CW = (op << 32) | zext_32(operand)` (R77). -/
def encode (i : Instr) : CommandWord := opcodeOf i ++ encodedArg i

/-- The pseudo-commands of the assembler (30_encoding.md R78). -/
inductive Pseudo where
  | enable
  | disable
  /-- The raw form `op = 0x0C, arg = n`, legal or not. -/
  | ext (n : Word)
  | reenable
deriving DecidableEq, Repr

/-- The command words a pseudo-command stands for, in order (R78). -/
def assemblePseudo : Pseudo → List CommandWord
  | .enable => [encode (.setEnable 1)]
  | .disable => [encode (.setEnable 0)]
  | .ext n => [0x0C#8 ++ n]
  | .reenable => [encode (.setEnable 0), encode (.setEnable 1)]

/-- The host's entry to the decoder: the instruction read from a table word whose `nbits` bits are `w`. -/
def decodeTableWord (nbits w : Nat) : Option Instr :=
  match decode (BitVec.ofNat 40 (w % 2 ^ nbits)) with
  | .command i => some i
  | .illegalOpcode _ => none
  | .illegalExt _ => none

end Sys2Proof
end

