-- ==== Sys2Proof/Machine/Params.lean ====
section
/-! DEFINITION. The default configuration record (00_scope.md R8, 20_memory.md R44) and the values rules compute from a record. -/

namespace Sys2Proof.Machine

/-- The table of 42_coordinate_quantizer.md R127. -/
def defaultOrient : Vector (Tri (Tri Int)) 8 := #v[
  ⟨⟨-1, 0, 0⟩, ⟨0, -1, 0⟩, ⟨0, 0, 1⟩⟩,
  ⟨⟨0, -1, 0⟩, ⟨1, 0, 0⟩, ⟨0, 0, 1⟩⟩,
  ⟨⟨1, 0, 0⟩, ⟨0, 1, 0⟩, ⟨0, 0, 1⟩⟩,
  ⟨⟨0, 1, 0⟩, ⟨-1, 0, 0⟩, ⟨0, 0, 1⟩⟩,
  ⟨⟨1, 0, 0⟩, ⟨0, -1, 0⟩, ⟨0, 0, -1⟩⟩,
  ⟨⟨0, 1, 0⟩, ⟨1, 0, 0⟩, ⟨0, 0, -1⟩⟩,
  ⟨⟨-1, 0, 0⟩, ⟨0, 1, 0⟩, ⟨0, 0, -1⟩⟩,
  ⟨⟨0, -1, 0⟩, ⟨-1, 0, 0⟩, ⟨0, 0, -1⟩⟩]

/-- The default `DEVCFG` of 20_memory.md R44. PRESUMED by the spec itself (its mark (K); log 11). -/
def defaultDev : DevCfg where
  regId := 0x80
  regCmd := 0x81
  regConf := 0x82
  regIntrvl := 0x83
  regOffs := ⟨0x84, 0x85, 0x86⟩
  regAvr := 0x87
  regHck := 0x88
  regLck := 0x89
  regSrst := 0x90
  regTrim := #v[0x93, 0x94, 0x95, 0x96, 0x97, 0x98, 0x99, 0x9A, 0x9B, 0x9C, 0x9D, 0x9E]
  regOcr := 0x9E
  regData := 0xB0
  regCal := 0xC0
  valSrst := 0x02
  valCmdStart := 0x01
  valCmdLdtc := 0x02
  valCmdFors := 0x04
  valCmdCont := 0x20
  valConfRcoil := 0x08

/-- The default `CAL_LAYOUT` of 30_encoding.md R66: nine fields packed without gaps. -/
def defaultLayout : CalLayout where
  a2 := #v[62, 63, 64, 65, 66, 67, 68]
  a3 := #v[55, 56, 57, 58, 59, 60, 61]
  a4 := #v[47, 48, 49, 50, 51, 52, 53, 54]
  a5 := #v[38, 39, 40, 41, 42, 43, 44, 45, 46]
  a6 := #v[31, 32, 33, 34, 35, 36, 37]
  a7 := #v[23, 24, 25, 26, 27, 28, 29, 30]
  a8 := #v[16, 17, 18, 19, 20, 21, 22]
  a9 := #v[7, 8, 9, 10, 11, 12, 13, 14, 15]
  k := #v[0, 1, 2, 3, 4, 5, 6]

/-- The defaults of 00_scope.md R8. R8 gives `HAS_CLOCK` no default: false is a DESIGN CHOICE (log 2), the value the
vectors of 95_test_vectors.md use unless they say otherwise. -/
def defaultConfig : Config where
  hasClock := false
  initCoilTimeoutMs := 1000
  latUs := #v[2000, 4000, 8000, 16000]
  delayDefault := 50
  avgDefault := 0
  posDefault := 2
  baseReset := ⟨8192, 8192, 8192⟩
  a1Const := 128
  sensVcore := 18
  chipId := 0x07
  tResetUs := 4000
  orient := defaultOrient
  calLayout := defaultLayout
  dev := defaultDev
  avrCode := #v[0x70, 0x71, 0x72, 0x73]
  intervalOverrides := []

/-- `LAT_US[a]`: the conversion latency of averaging level `a`, in microseconds (R14, R262). -/
def latency (cfg : Config) (a : BitVec 2) : Nat := cfg.latUs.get a.toFin

/-- `AVR_CODE[a]`: the byte for `REG_AVR` (R44). -/
def avrCode (cfg : Config) (a : BitVec 2) : Byte := cfg.avrCode.get a.toFin

/-- `INTERVAL_CODE(d, a)`: the byte for `REG_INTRVL`, `min(255, d)` unless the record says otherwise (R44, D24). -/
def intervalCode (cfg : Config) (d : Word) (a : BitVec 2) : Byte :=
  match cfg.intervalOverrides.lookup (d, a) with
  | some b => b
  | none => BitVec.ofNat 8 (min 255 d.toNat)

/-- `CMD(ldtc, fors, cont)`: the start command byte (30_encoding.md R75). -/
def cmdByte (cfg : Config) (ldtc fors cont : Bool) : Byte :=
  cfg.dev.valCmdStart ||| (if ldtc then cfg.dev.valCmdLdtc else 0#8) ||| (if fors then cfg.dev.valCmdFors else 0#8)
    ||| (if cont then cfg.dev.valCmdCont else 0#8)

/-- `ORIENT[p]` (R127). -/
def orientMatrix (cfg : Config) (p : BitVec 3) : Tri (Tri Int) := cfg.orient.get p.toFin

end Sys2Proof.Machine
end

