-- ==== Sys2Proof/Machine/State.lean ====
section
/-! DEFINITION. The machine's state as plain data, the reasons a step can stop, and the state after reset. -/

namespace Sys2Proof.Machine

/-- Who raises a fault, and whether stopping there is safe. Each is the spec's own treatment "fault": an error of the model
itself, in a situation the spec proves unreachable (93_implementation_defined.md, 10_state.md R37). -/
inductive Fault where
  /-- Raised by `BusOpen` when `BUSOPEN = 1`: its precondition fails (20_memory.md R41). Safe: the model stops (log 7). -/
  | busAlreadyOpen
  /-- Raised by `BusClose`, `MemRead` and `MemWrite` when `BUSOPEN = 0`: their precondition fails (R41 to R43). Safe (log 7). -/
  | busNotOpen
  /-- Raised by U_FSM when `MSTATE = 3`, a value no rule writes (10_state.md R16, U4). Safe (log 8). -/
  | mstateIllegal
deriving DecidableEq, Repr

/-- Why an instruction would be rejected. -/
inductive Refusal where
  /-- Raised by an arm of `exec` whose instruction has no meaning yet; safe. No arm does. -/
  | notModelled (mnemonic : String)
deriving DecidableEq, Repr

/-- The ten error kinds (60_exceptions.md R220). -/
inductive ErrKind where
  | notInitialized
  | alreadyInitialized
  | invalidArgument
  | deviceCommunication
  | chipIdMismatch
  | calibrationInvalid
  | busy
  | directionCalcFailed
  | overflowDetected
  | underflowDetected
deriving DecidableEq, Repr

/-- The response record's fields (30_encoding.md R62). -/
structure Response where
  status : Byte
  count : Byte
  r0 : Word
  r1 : Word
  r2 : Word
  r3 : Word
deriving DecidableEq, Repr

/-- One interaction with the environment, as 20_memory.md R56 lists them. -/
inductive Event where
  | opened (ok : Bool)
  | closed (ok : Bool)
  /-- A read of `n` bytes from `addr`: the bytes, or `none` where the environment answered failure. -/
  | read (addr : Byte) (n : Nat) (answer : Option (List Byte))
  | wrote (addr value : Byte) (ok : Bool)
  | slept (us : Nat)
  | clockRead (ms : Word)
deriving DecidableEq, Repr

/-- The environment's answer to one bus transaction (R46): failure, or success with the bytes a read returns. Bytes a
script leaves out are free values; a transaction that is no read ignores them. -/
inductive BusAnswer where
  | fail
  | done (bytes : List Byte)
deriving DecidableEq, Repr

/-- The correction model: VER, A2..A9, K (10_state.md R20 to R23). -/
structure CorrModel where
  ver : BitVec 1
  a2 : BitVec 8
  a3 : BitVec 8
  a4 : BitVec 8
  a5 : BitVec 16
  a6 : BitVec 8
  a7 : BitVec 8
  a8 : BitVec 8
  a9 : BitVec 16
  k : BitVec 16
deriving DecidableEq, Repr

/-- The captured sample RAW (R27). -/
structure RawSample where
  t : BitVec 16
  x : BitVec 14
  y1 : BitVec 14
  y2 : BitVec 14
  busy : Bool
  bad : Bool
deriving DecidableEq, Repr

/-- Everything the spec gives the machine, and what the model needs of the environment (INVENTORY.md, State). -/
structure State where
  /-- The configuration record (R8); no step writes it. -/
  cfg : Config
  /-- INITIALIZED (R11). -/
  initialized : Bool
  /-- ENABLE (R12). -/
  enable : Bool
  /-- BUSOPEN (R35). -/
  busOpen : Bool
  /-- DELAY, milliseconds (R13). -/
  delay : Word
  /-- AVG (R14). -/
  avg : BitVec 2
  /-- POSITION (R15). -/
  position : BitVec 3
  /-- MSTATE: 0 Normal, 1 InitCoil, 2 RecordData (R16). -/
  mstate : BitVec 2
  /-- INVALID (R17). -/
  invalid : Bool
  /-- ONSET, milliseconds (R18). -/
  onset : Word
  /-- LCLK, milliseconds (R19). -/
  lclk : Word
  /-- VER, A2..A9, K (R20 to R23). -/
  model : CorrModel
  /-- HWOFF[0..2], signed bytes (R24). -/
  hwoff : Tri (BitVec 8)
  /-- LAST_RAW[0..2] (R25). -/
  lastRaw : Tri (BitVec 16)
  /-- LAST_RAW[3], the temperature word (R25). -/
  lastRawT : BitVec 16
  /-- BASE[0..2] (R26). -/
  base : Tri (BitVec 14)
  /-- RAW (R27), a working register. -/
  raw : RawSample
  /-- C[0..2], the corrected words (R28), a working register. -/
  c : Tri (BitVec 14)
  /-- OVF, the overflow mask (R29), a working register. -/
  ovf : BitVec 6
  /-- P[0..2], physical values, signed (R30), a working register. -/
  p : Tri Word
  /-- V[0..2], oriented values, signed (R30), a working register. -/
  v : Tri Word
  /-- Q[0..2], quantised values with status digit, signed (R30), a working register. -/
  q : Tri Word
  /-- ACC, signed (R31), a working register. -/
  acc : Word
  /-- The command words the host has still to deliver, oldest first; the port takes one at a time (R180; log 4). -/
  port : List CommandWord
  /-- The response record last delivered; `none` until a command has ended (R62; log 5). -/
  response : Option Response
  /-- The environment interactions of the current command, oldest first (R56; log 6). -/
  trace : List Event
  /-- The environment's answers to the transactions to come; past its end, `Config.busOk` and `Config.busByte` (log 3). -/
  busScript : List BusAnswer
  /-- How many transactions were answered so far (the model's own; log 3). -/
  busDraws : Nat
  /-- The answers of `Now()` to come; past its end, `Config.clockMs` (log 3). -/
  clockScript : List Word
  /-- How many `Now()` calls were answered so far (the model's own; log 3). -/
  clockDraws : Nat
  /-- How many commits left coefficients without a value (the model's own; log 9). -/
  freeDraws : Nat
deriving DecidableEq, Repr

/-- Right after hardware reset: INITIALIZED, ENABLE and BUSOPEN are 0 (70_reset_and_hazards.md R250, 10_state.md R36). The
spec gives no other register a value; each is zero here (DESIGN CHOICE, log 1). The configuration is R8's defaults (log 2),
no command is pending and the environment scripts nothing (log 3, 4). -/
def State.reset : State where
  cfg := defaultConfig
  initialized := false
  enable := false
  busOpen := false
  delay := 0
  avg := 0
  position := 0
  mstate := 0
  invalid := false
  onset := 0
  lclk := 0
  model := ⟨0, 0, 0, 0, 0, 0, 0, 0, 0, 0⟩
  hwoff := ⟨0, 0, 0⟩
  lastRaw := ⟨0, 0, 0⟩
  lastRawT := 0
  base := ⟨0, 0, 0⟩
  raw := ⟨0, 0, 0, 0, false, false⟩
  c := ⟨0, 0, 0⟩
  ovf := 0
  p := ⟨0, 0, 0⟩
  v := ⟨0, 0, 0⟩
  q := ⟨0, 0, 0⟩
  acc := 0
  port := []
  response := none
  trace := []
  busScript := []
  busDraws := 0
  clockScript := []
  clockDraws := 0
  freeDraws := 0

/-- How a procedure ends: with a result, with a raised error kind (R231), or with a fault of the model. -/
inductive Res (α : Type) where
  | ok (a : α) (s : State)
  | err (e : ErrKind) (s : State)
  | fault (f : Fault)
deriving DecidableEq, Repr

/-- A procedure of the spec's pseudocode (00_scope.md R9): it runs inside one command, from a state to an end. -/
abbrev Proc (α : Type) := State → Res α

end Sys2Proof.Machine
end

