-- ==== Sys2Proof/Machine/Ops.lean ====
section
/-! DEFINITION. The named operations every meaning is built from: the environment's answers, the bus primitives (20_memory.md
R41 to R43), `Sleep` and `Now` (00_scope.md R9), raise, try and cleanup (60_exceptions.md R231, R239), and the end of a
command: its response, and the error response that is the block's trap entry (R232). -/

namespace Sys2Proof.Machine

/-! ### The environment's answers (R46, U12) -/

/-- Whether the environment answers the `k`-th transaction from here with success: by the script, else freely. -/
def busOkAt (s : State) (k : Nat) : Bool :=
  match s.busScript[k]? with
  | some .fail => false
  | some (.done _) => true
  | none => Config.busOk (s.busDraws + k)

/-- Byte `i` of the data of the `k`-th transaction from here: by the script, else a free value. -/
def busByteAt (s : State) (k i : Nat) : Byte :=
  match s.busScript[k]? with
  | some (.done bytes) =>
    match bytes[i]? with
    | some b => b
    | none => Config.busByte (s.busDraws + k) i
  | some .fail => Config.busByte (s.busDraws + k) i
  | none => Config.busByte (s.busDraws + k) i

/-- What the `k`-th call of `Now()` from here answers: by the script, else freely. -/
def clockAt (s : State) (k : Nat) : Word :=
  match s.clockScript[k]? with
  | some t => t
  | none => Config.clockMs (s.clockDraws + k)

/-- The data bytes `[b0 .. b(n-1)]` of the next transaction, `b0` from the register addressed (R42). -/
def readData (s : State) (n : Nat) : Fin n → Byte := fun i => busByteAt s 0 i.val

/-- `n` transactions have been answered and the interactions `evs` recorded (R56). -/
def advance (s : State) (n : Nat) (evs : List Event) : State :=
  { s with busScript := s.busScript.drop n, busDraws := s.busDraws + n, trace := s.trace ++ evs }

/-! ### What each transaction leaves, given the environment's answer -/

/-- After `BusOpen()`: BUSOPEN is 1 on success, unchanged on failure (R41). -/
def openEffect (s : State) : State :=
  { advance s 1 [.opened (busOkAt s 0)] with busOpen := s.busOpen || busOkAt s 0 }

/-- After `BusClose()`: BUSOPEN is 0 in both cases (R41). -/
def closeEffect (s : State) : State :=
  { advance s 1 [.closed (busOkAt s 0)] with busOpen := false }

/-- After `MemRead(addr, n)` (R42). -/
def readEffect (addr : Byte) (n : Nat) (s : State) : State :=
  advance s 1 [.read addr n (if busOkAt s 0 then some (List.ofFn (readData s n)) else none)]

/-- After `MemWrite(addr, 1, v)` (R43). -/
def writeEffect (addr v : Byte) (s : State) : State :=
  advance s 1 [.wrote addr v (busOkAt s 0)]

/-! ### Procedures: sequence, raise, try, cleanup (R9, R231, R239) -/

/-- End with a result and no effect. -/
def Proc.pure {α : Type} (a : α) : Proc α := fun s => .ok a s

/-- A register write that cannot fail. -/
def Proc.modify (f : State → State) : Proc Unit := fun s => .ok () (f s)

/-- Run `p`, then the procedure its result selects; a raise or a fault of `p` ends the whole. -/
def Proc.bind {α β : Type} (p : Proc α) (f : α → Proc β) : Proc β := fun s =>
  match p s with
  | .ok a s' => f a s'
  | .err e s' => .err e s'
  | .fault x => .fault x

/-- Run `p`, then `q`. -/
def Proc.andThen {β : Type} (p : Proc Unit) (q : Proc β) : Proc β := p.bind fun _ => q

/-- `raise K` (R231). -/
def raise {α : Type} (e : ErrKind) : Proc α := fun s => .err e s

/-- `e <- try X`: a raise is caught and becomes the result (R9). -/
def Proc.attempt {α : Type} (p : Proc α) : Proc (Except ErrKind α) := fun s =>
  match p s with
  | .ok a s' => .ok (.ok a) s'
  | .err e s' => .ok (.error e) s'
  | .fault x => .fault x

/-- A bare `try X`: the outcome is discarded (R9). -/
def Proc.ignore {α : Type} (p : Proc α) : Proc Unit := p.attempt.bind fun _ => Proc.pure ()

/-- Raise the error a `try` caught; go on otherwise. -/
def reraise {α : Type} : Except ErrKind α → Proc Unit
  | .ok _ => Proc.pure ()
  | .error e => raise e

/-- `body: … cleanup: …`: the cleanup runs whether the body ended or raised, an error inside it is discarded, and the
result is the body's (R239, R155). -/
def Proc.withCleanup {α : Type} (body : Proc α) (cleanup : Proc Unit) : Proc α :=
  body.attempt.bind fun r => cleanup.ignore.bind fun _ =>
    match r with
    | .ok a => Proc.pure a
    | .error e => raise e

/-! ### The primitives -/

/-- `BusOpen()`; called only with `BUSOPEN = 0` (R41). -/
def primBusOpen : Proc Unit := fun s =>
  if s.busOpen then .fault .busAlreadyOpen
  else if busOkAt s 0 then .ok () (openEffect s)
  else .err .deviceCommunication (openEffect s)

/-- `BusClose()`; called only with `BUSOPEN = 1` (R41). -/
def primBusClose : Proc Unit := fun s =>
  if !s.busOpen then .fault .busNotOpen
  else if busOkAt s 0 then .ok () (closeEffect s)
  else .err .deviceCommunication (closeEffect s)

/-- `MemRead(addr, n)`; precondition `BUSOPEN = 1` (R42). -/
def primMemRead (addr : Byte) (n : Nat) : Proc (Fin n → Byte) := fun s =>
  if !s.busOpen then .fault .busNotOpen
  else if busOkAt s 0 then .ok (readData s n) (readEffect addr n s)
  else .err .deviceCommunication (readEffect addr n s)

/-- `MemWrite(addr, 1, v)`; precondition `BUSOPEN = 1` (R43). -/
def primMemWrite (addr v : Byte) : Proc Unit := fun s =>
  if !s.busOpen then .fault .busNotOpen
  else if busOkAt s 0 then .ok () (writeEffect addr v s)
  else .err .deviceCommunication (writeEffect addr v s)

/-- The writes of a list, in order, up to the first that fails (40_calibration_decoder.md R98). -/
def writeAll : List (Byte × Byte) → Proc Unit
  | [] => Proc.pure ()
  | (addr, v) :: rest => (primMemWrite addr v).andThen (writeAll rest)

/-- `Sleep(us)`: a blocking wait with no other effect (R9, R52); it cannot fail. -/
def primSleep (us : Nat) : Proc Unit := Proc.modify fun s => advance s 0 [.slept us]

/-- `Now()`: the environment's time in milliseconds; it cannot fail (R236). -/
def primNow : Proc Word := fun s =>
  .ok (clockAt s 0)
    { s with clockScript := s.clockScript.drop 1, clockDraws := s.clockDraws + 1, trace := s.trace ++ [.clockRead (clockAt s 0)] }

/-! ### The end of a command -/

/-- The status code of an error kind (30_encoding.md R73). -/
def statusCode : ErrKind → Byte
  | .notInitialized => 1
  | .alreadyInitialized => 2
  | .invalidArgument => 3
  | .deviceCommunication => 4
  | .chipIdMismatch => 5
  | .calibrationInvalid => 6
  | .busy => 7
  | .directionCalcFailed => 8
  | .overflowDetected => 9
  | .underflowDetected => 10

/-- `(OK, 0, r0, r1, r2, r3)`. -/
def okResponse (r0 r1 r2 r3 : Word) : Response := ⟨0, 0, r0, r1, r2, r3⟩

/-- `(OK, 0, 0, 0, 0, 0)`. -/
def okEmpty : Response := okResponse 0 0 0 0

/-- `(OK, 1, q0, q1, q2, 0)`: one sample (45_host_commands.md R197). -/
def sampleResponse (q : Tri Word) : Response := ⟨0, 1, q.c0, q.c1, q.c2, 0⟩

/-- The response on an error: the kind's code, count 0, result words 0 (R62, R232). -/
def errorResponse (e : ErrKind) : Response := ⟨statusCode e, 0, 0, 0, 0, 0⟩

/-- The response record as 144 bits (R62). -/
def responseBits (r : Response) : BitVec 144 := r.status ++ r.count ++ r.r0 ++ r.r1 ++ r.r2 ++ r.r3

/-- Deliver the response: the command has ended (R180, R62). -/
def deliver (r : Response) (s : State) : State := { s with response := some r }

/-- TAKING AN EXCEPTION: what an ISA manual calls a trap is here the error response, and nothing else is recorded: no
cause register, no saved address, no vector (60_exceptions.md R232). There is no return from one: the response ends the
command, and the next command starts clean. -/
def respondError (e : ErrKind) (s : State) : State := deliver (errorResponse e) s

/-- A command's end from its procedure's end (R231). -/
def finish : Res Response → Host.Outcome State Fault Refusal
  | .ok r s => .next (deliver r s)
  | .err e s => .next (respondError e s)
  | .fault f => .fault f

/-- The lifecycle guard of every command but INIT, then the operation (45_host_commands.md R181, 60_exceptions.md R221). -/
def guarded (p : Proc Response) (s : State) : Host.Outcome State Fault Refusal :=
  if s.initialized then finish (p s) else .next (respondError .notInitialized s)

/-! ### The host port (45_host_commands.md R180) -/

/-- Take the next command word from the port; the new command's trace starts empty (R56). -/
def fetchCommand (s : State) : Option (CommandWord × State) :=
  match s.port with
  | [] => none
  | w :: rest => some (w, { s with port := rest, trace := [] })

/-- The answer to a word with an illegal opcode, in every mode (30_encoding.md R74 (a), R181 (1)). -/
def rejectOpcode (s : State) : Host.Outcome State Fault Refusal := .next (respondError .invalidArgument s)

/-- The answer to an EXT word whose `arg` names no sub-command, after the lifecycle guard (R74 (b), R198). -/
def rejectExt (s : State) : Host.Outcome State Fault Refusal := guarded (raise .invalidArgument) s

/-- A word placed so that the port delivers it next. -/
def placeCommand (w : CommandWord) (s : State) : State := { s with port := w :: s.port }

end Sys2Proof.Machine
end

