-- ==== Sys2Proof/Machine/Operands.lean ====
section
/-! DEFINITION. The operands of the units: command arguments (45_host_commands.md), the fields of the calibration block
(30_encoding.md R65 to R67, R76) and of the sample (R69), and the narrowing of exact results. -/

namespace Sys2Proof.Machine

/-- The clamp of 00_scope.md R9. -/
def clampInt (lo hi v : Int) : Int := if v < lo then lo else if v > hi then hi else v

/-- A signed result narrowed to a 32-bit register; exact for every value the rules give it (R216). -/
def word32 (v : Int) : Word := BitVec.ofInt 32 v

/-- The calibration block `B[0..16]`, `B[0]` from the lowest register (R9, R65). -/
abbrev CalBlock := Fin 17 → Byte

/-- The version tag `B[16][7:6]` (40_calibration_decoder.md R92). -/
def verField (B : CalBlock) : Byte := B 16 >>> 6

/-- Zero validation: some bit of `B[0..15]` or of `B[16][5:0]` is set (R93). -/
def calNonzero (B : CalBlock) : Bool :=
  (B 0 ||| B 1 ||| B 2 ||| B 3 ||| B 4 ||| B 5 ||| B 6 ||| B 7 ||| B 8 ||| B 9 ||| B 10 ||| B 11 ||| B 12 ||| B 13 ||| B 14
    ||| B 15 ||| (B 16 &&& 0x3F#8)) != 0#8

/-- The 72-bit string `S = B[3] ‖ … ‖ B[11]` (R66). -/
def calString (B : CalBlock) : BitVec 72 :=
  B 3 ++ B 4 ++ B 5 ++ B 6 ++ B 7 ++ B 8 ++ B 9 ++ B 10 ++ B 11

/-- The number whose bit `i` is `bs[i]`. -/
def bitsValue : List Bool → Nat
  | [] => 0
  | b :: bs => b.toNat + 2 * bitsValue bs

/-- The unsigned field made of the given bits of S, bit 0 of the field first (R66). -/
def calField {w : Nat} (B : CalBlock) (bits : Vector (Fin 72) w) : Int :=
  bitsValue (bits.toList.map fun i => (calString B).getLsbD i.val)

/-- The nine values of a version-1 block: each unsigned field less its bias, `k` with none (R67, R96). -/
def decodeModel (l : CalLayout) (B : CalBlock) : CorrModel where
  ver := 1
  a2 := BitVec.ofInt 8 (calField B l.a2 - 64)
  a3 := BitVec.ofInt 8 (calField B l.a3 - 64)
  a4 := BitVec.ofInt 8 (calField B l.a4 - 128)
  a5 := BitVec.ofInt 16 (calField B l.a5 - 112)
  a6 := BitVec.ofInt 8 (calField B l.a6 - 64)
  a7 := BitVec.ofInt 8 (calField B l.a7 - 128)
  a8 := BitVec.ofInt 8 (calField B l.a8 - 64)
  a9 := BitVec.ofInt 16 (calField B l.a9 - 112)
  k := BitVec.ofInt 16 (calField B l.k)

/-- The model a version-0 commit leaves: VER 0 and coefficients without a value, each a free value (R94, D8; log 9). -/
def passThroughModel (n : Nat) : CorrModel where
  ver := 0
  a2 := (Config.noValue n 2).setWidth 8
  a3 := (Config.noValue n 3).setWidth 8
  a4 := (Config.noValue n 4).setWidth 8
  a5 := Config.noValue n 5
  a6 := (Config.noValue n 6).setWidth 8
  a7 := (Config.noValue n 7).setWidth 8
  a8 := (Config.noValue n 8).setWidth 8
  a9 := Config.noValue n 9
  k := Config.noValue n 10

/-- `TRIM3` (R76). -/
def trim3Byte (B : CalBlock) : Byte := (B 3 &&& 0xE0#8) ||| 0x10#8

/-- `HCK` (R76). -/
def hckByte (B : CalBlock) : Byte := (B 15 >>> 3) &&& 0x1E#8

/-- `LCK` (R76). -/
def lckByte (B : CalBlock) : Byte := (B 15 <<< 1) &&& 0x1E#8

/-- `OCR` (R76). -/
def ocrByte (B : CalBlock) : Byte := B 16 &&& 0x3F#8

/-- The 17 writes of a version-0 block, in order (R94). -/
def v0Writes (d : DevCfg) (B : CalBlock) : List (Byte × Byte) :=
  List.ofFn (fun i : Fin 12 => (d.regTrim.get i, B (i.castLE (by decide))))
    ++ [(d.regOffs.c0, B 12), (d.regOffs.c1, B 13), (d.regOffs.c2, B 14), (d.regHck, B 15), (d.regLck, B 16)]

/-- The 10 writes of a version-1 block, in order (R95). -/
def v1Writes (d : DevCfg) (B : CalBlock) : List (Byte × Byte) :=
  [(d.regTrim.get 0, B 0), (d.regOffs.c0, B 12), (d.regTrim.get 1, B 1), (d.regOffs.c1, B 13), (d.regTrim.get 2, B 2),
   (d.regOffs.c2, B 14), (d.regTrim.get 3, trim3Byte B), (d.regHck, hckByte B), (d.regLck, lckByte B), (d.regOcr, ocrByte B)]

/-- HWOFF of a block: `B[12..14]` (R24, R94, R96). -/
def hwoffOf (B : CalBlock) : Tri (BitVec 8) := ⟨B 12, B 13, B 14⟩

/-- The 64 bits `W = D[0] ‖ … ‖ D[7]` of a sample (R69). -/
def sampleString (D : Fin 8 → Byte) : BitVec 64 := D 0 ++ D 1 ++ D 2 ++ D 3 ++ D 4 ++ D 5 ++ D 6 ++ D 7

/-- The fields of a sample; `W[31:30]` and `W[15:14]` are ignored (R69). -/
def parseSample (D : Fin 8 → Byte) : RawSample where
  t := (sampleString D).extractLsb' 48 16
  busy := (sampleString D).getLsbD 47
  bad := (sampleString D).getLsbD 46
  x := (sampleString D).extractLsb' 32 14
  y1 := (sampleString D).extractLsb' 16 14
  y2 := (sampleString D).extractLsb' 0 14

/-- The triple `(RAW.X, RAW.Y1, RAW.Y2)`. -/
def rawWords (r : RawSample) : Tri (BitVec 14) := ⟨r.x, r.y1, r.y2⟩

/-- The operand of SET_ENABLE as a truth value: 0 is false, anything else true (R72, R184). -/
def wantEnable (arg : Word) : Bool := arg != 0#32

/-- SET_DELAY accepts a value whose bit 31 is clear (R189). -/
def delayLegal (arg : Word) : Bool := !arg.getLsbD 31

/-- SET_POSITION accepts `arg <= 7`, compared unsigned (R191). -/
def positionLegal (arg : Word) : Bool := arg ≤ 7#32

/-- SET_AVERAGING accepts `arg <= 3`, compared unsigned (R193). -/
def averagingLegal (arg : Word) : Bool := arg ≤ 3#32

/-- A truth value as a result word (R72). -/
def boolWord (b : Bool) : Word := if b then 1 else 0

end Sys2Proof.Machine
end

