-- ==== Sys2Proof/Machine/Flags.lean ====
section
/-! DEFINITION. The block's flags (10_state.md R33): the overflow mask, the anomaly predicate, and the measurement states. -/

namespace Sys2Proof.Machine

/-- MSTATE = Normal (R16). -/
def mNormal : BitVec 2 := 0

/-- MSTATE = InitCoil (R16). -/
def mInitCoil : BitVec 2 := 1

/-- MSTATE = RecordData (R16). -/
def mRecordData : BitVec 2 := 2

/-- A corrected word at or above the overflow threshold 16383 (42_coordinate_quantizer.md R121). -/
def isOverflow (w : BitVec 14) : Bool := 16383 ≤ w.toNat

/-- A corrected word equal to 0 (R121). -/
def isUnderflow (w : BitVec 14) : Bool := w.toNat == 0

/-- The 6-bit mask: bit `2i` overflow and bit `2i + 1` underflow of word axis `i` (R121, 30_encoding.md R70). -/
def overflowMask (c : Tri (BitVec 14)) : BitVec 6 :=
  BitVec.ofBool (isUnderflow c.c2) ++ BitVec.ofBool (isOverflow c.c2) ++ BitVec.ofBool (isUnderflow c.c1)
    ++ BitVec.ofBool (isOverflow c.c1) ++ BitVec.ofBool (isUnderflow c.c0) ++ BitVec.ofBool (isOverflow c.c0)

/-- `OVF & 0x15`: any overflow (R70). -/
def anyOverflow (m : BitVec 6) : Bool := (m &&& 0x15#6) != 0#6

/-- `OVF & 0x2A`: any underflow (R70). -/
def anyUnderflow (m : BitVec 6) : Bool := (m &&& 0x2A#6) != 0#6

/-- The digit U_QUANT adds to output slot `i`: 1 for overflow, 2 for underflow of word axis `i` (R128). -/
def statusDigit (m : BitVec 6) (i : Fin 3) : Int :=
  (if m.getLsbD (2 * i.val) then 1 else 0) + (if m.getLsbD (2 * i.val + 1) then 2 else 0)

/-- The status digit a host recovers from an output value: `emod(Q, 10)`, for negative values too (R71, R130). -/
def digitOf (q : Word) : Int := q.toInt.emod 10

/-- `abs(C[i] - BASE[i]) > 1500` on one axis, formed on integers (43_measurement_fsm.md R141). -/
def axisDrift (c b : BitVec 14) : Bool := 1500 < ((c.toNat : Int) - (b.toNat : Int)).natAbs

/-- Drift on some axis (R141). -/
def drift (c b : Tri (BitVec 14)) : Bool := axisDrift c.c0 b.c0 || axisDrift c.c1 b.c1 || axisDrift c.c2 b.c2

/-- `anomaly = drift or (OVF != 0)` (R141). -/
def anomaly (s : State) : Bool := drift s.c s.base || s.ovf != 0#6

end Sys2Proof.Machine
end

