-- ==== Sys2Proof/Machine/CalDecoder.lean ====
section
/-! DEFINITION. Unit 1, the calibration decoder: U_CALDEC and P_RESET_DECODE (40_calibration_decoder.md R90 to R101). -/

namespace Sys2Proof.Machine

/-- The commit of a version-0 block: VER 0, HWOFF, and coefficients without a value (R94, D8; log 9). -/
def commitV0 (B : CalBlock) (s : State) : State :=
  { s with model := passThroughModel s.freeDraws, hwoff := hwoffOf B, freeDraws := s.freeDraws + 1 }

/-- The commit of a version-1 block, all registers together (R96, R98). -/
def commitV1 (B : CalBlock) (s : State) : State :=
  { s with model := decodeModel s.cfg.calLayout B, hwoff := hwoffOf B }

/-- U_CALDEC: validate, then write and commit by version; any failure comes before the commit (R91, R97, R98). -/
def uCaldec (B : CalBlock) : Proc Unit := fun s =>
  if !calNonzero B then .err .calibrationInvalid s
  else if verField B = 0#8 then (writeAll (v0Writes s.cfg.dev B)).andThen (Proc.modify (commitV0 B)) s
  else if verField B = 1#8 then (writeAll (v1Writes s.cfg.dev B)).andThen (Proc.modify (commitV1 B)) s
  else .err .calibrationInvalid s

/-- The measurement state after a successful reset and decode: Normal, no invalid data, the reset baseline (R100 step 7). -/
def resetMeasurement (s : State) : State :=
  { s with mstate := mNormal, invalid := false, onset := 0, base := s.cfg.baseReset }

/-- P_RESET_DECODE (R100). -/
def pResetDecode : Proc Unit := fun s =>
  ((primMemWrite s.cfg.dev.regSrst s.cfg.dev.valSrst).andThen <|
   (primSleep s.cfg.tResetUs).andThen <|
   (primMemRead s.cfg.dev.regCal 17).bind fun B =>
   (uCaldec B).andThen <|
   (primMemWrite s.cfg.dev.regAvr (avrCode s.cfg s.avg)).andThen <|
   (primMemWrite s.cfg.dev.regIntrvl (intervalCode s.cfg s.delay s.avg)).andThen <|
   Proc.modify resetMeasurement) s

end Sys2Proof.Machine
end

