-- ==== Sys2Proof/Machine/Quantizer.lean ====
section
/-! DEFINITION. Unit 3, the coordinate quantizer: U_OVF, U_CONV, U_ORIENT, U_QUANT (42_coordinate_quantizer.md R120 to R132). -/

namespace Sys2Proof.Machine

/-- U_OVF: the mask of the corrected words (R121). -/
def uOvf (s : State) : State := { s with ovf := overflowMask s.c }

/-- The physical conversion of a word triple, exact (R122). -/
def convInts (c : Tri (BitVec 14)) : Tri Int :=
  ⟨((c.c0.toNat : Int) - 8192) * 300,
   (((c.c1.toNat : Int) - (c.c2.toNat : Int)) * 1732).tdiv 10,
   (16384 - (c.c1.toNat : Int) - (c.c2.toNat : Int)) * 300⟩

/-- U_CONV (R122). -/
def uConv (s : State) : State := { s with p := (convInts s.c).map word32 }

/-- One row of a matrix times a vector (R124). -/
def rowDot (r p : Tri Int) : Int := r.c0 * p.c0 + r.c1 * p.c1 + r.c2 * p.c2

/-- The matrix-vector product of R124, exact. -/
def matVec (m : Tri (Tri Int)) (p : Tri Int) : Tri Int := m.map fun r => rowDot r p

/-- U_ORIENT: position 2 performs no transform, the others multiply by `ORIENT[POSITION]` (R124). -/
def uOrient (s : State) : State :=
  if s.position = 2#3 then { s with v := s.p }
  else { s with v := (matVec (orientMatrix s.cfg s.position) (s.p.map BitVec.toInt)).map word32 }

/-- `V - trem(V, 10)`: the multiple of 10 towards zero (R128). -/
def truncTen (v : Int) : Int := v - v.tmod 10

/-- One output value: the truncated value plus the status digit of word axis `i` (R128). -/
def quantAxis (m : BitVec 6) (i : Fin 3) (v : Word) : Word := word32 (truncTen v.toInt + statusDigit m i)

/-- U_QUANT: slot `i` takes the status of word axis `i`, whatever POSITION is (R128). -/
def uQuant (s : State) : State :=
  { s with q := ⟨quantAxis s.ovf 0 s.v.c0, quantAxis s.ovf 1 s.v.c1, quantAxis s.ovf 2 s.v.c2⟩ }

end Sys2Proof.Machine
end

