-- ==== Sys2Proof/Machine/Fsm.lean ====
section
/-! DEFINITION. Unit 4, the measurement state machine U_FSM (43_measurement_fsm.md R135 to R148). -/

namespace Sys2Proof.Machine

/-- `elapsed = (now - ONSET) mod 2^32`, in milliseconds (R136). -/
def elapsedMs (now onset : Word) : Nat := (now - onset).toNat

/-- The drift status: 3 added to every output value (R143). -/
def addThree (q : Tri Word) : Tri Word := q.map fun x => word32 (x.toInt + 3)

/-- The coil re-initialisation has been written: the hold starts over and a good sample is awaited (R138). -/
def coilDone (now : Word) (s : State) : State := { s with onset := now, mstate := mRecordData }

/-- State InitCoil: hold until the timeout, then write the coil register (R138). -/
def fsmInitCoil (now : Word) : Proc Unit := fun s =>
  if s.cfg.initCoilTimeoutMs ≤ elapsedMs now s.onset then
    (primMemWrite s.cfg.dev.regConf s.cfg.dev.valConfRcoil).andThen (Proc.modify (coilDone now)) s
  else .ok () s

/-- State Normal: flag an anomaly (onset on the rising edge only, the digit 3 only without overflow), else clear the flag
(R140 to R143). -/
def fsmNormal (now : Word) (s : State) : State :=
  if anomaly s then
    { s with
      onset := if s.invalid then s.onset else now
      invalid := true
      mstate := mInitCoil
      q := if s.ovf = 0#6 then addThree s.q else s.q }
  else { s with invalid := false }

/-- State RecordData: on the first sample whose BAD flag is clear, capture the baseline and fall through to Normal (R139). -/
def fsmRecordData (now : Word) (s : State) : State :=
  if s.raw.bad then s else fsmNormal now { s with base := s.c, mstate := mNormal }

/-- U_FSM: one arm by MSTATE, with the re-dispatch from RecordData to Normal (R137). MSTATE 3 faults (U4; log 8). -/
def uFsm (now : Word) : Proc Unit := fun s =>
  if s.mstate = mInitCoil then fsmInitCoil now s
  else if s.mstate = mRecordData then .ok () (fsmRecordData now s)
  else if s.mstate = mNormal then .ok () (fsmNormal now s)
  else .fault .mstateIllegal

end Sys2Proof.Machine
end

