-- ==== Sys2Proof/Machine/Mac.lean ====
section
/-! DEFINITION. Unit 2, the fixed-point correction MAC: U_CORRECT and its linear part L (41_correction_mac.md R110 to R115). -/

namespace Sys2Proof.Machine

/-- One row of the multiply-accumulate: `K * (a * s0 + b * s1 + c * s2)`, exact (R112). -/
def macRow (k a b c : Int) (s : Tri Int) : Int := k * (a * s.c0 + b * s.c1 + c * s.c2)

/-- The three values ACC takes in turn, each a 32-bit register (R112, R115, 10_state.md R31). -/
def macAcc (a1 : Int) (m : CorrModel) (s : Tri Int) : Tri Word :=
  ⟨word32 (macRow m.k.toInt a1 m.a2.toInt m.a3.toInt s),
   word32 (macRow m.k.toInt m.a4.toInt m.a5.toInt m.a6.toInt s),
   word32 (macRow m.k.toInt m.a7.toInt m.a8.toInt m.a9.toInt s)⟩

/-- `h[i] = tdiv(ACC, 8192)` of the three accumulations (R112). -/
def macQuotients (acc : Tri Word) : Tri Int := acc.map fun a => a.toInt.tdiv 8192

/-- Recentre a 14-bit word about the midpoint (R112). -/
def recentre (w : BitVec 14) : Int := (w.toNat : Int) - 8192

/-- Clamp a quotient to `[-8192, 8191]` and re-offset it by 8192 (R112). -/
def clampWord (h : Int) : BitVec 14 := BitVec.ofInt 14 (clampInt (-8192) 8191 h + 8192)

/-- U_CORRECT on the words `w`: identity under VER 0, the clamped matrix product under VER 1 (R111, R112). -/
def uCorrect (w : Tri (BitVec 14)) (s : State) : State :=
  if s.model.ver = 0#1 then { s with c := w }
  else
    { s with
      c := (macQuotients (macAcc s.cfg.a1Const s.model (w.map recentre))).map clampWord
      acc := (macAcc s.cfg.a1Const s.model (w.map recentre)).c2 }

/-- The linear part `L(d)`: no recentring, no clamp (R115). -/
def linearPart (s : State) (d : Tri Int) : Tri Int :=
  if s.model.ver = 0#1 then d else macQuotients (macAcc s.cfg.a1Const s.model d)

/-- What L leaves in the accumulator (R115, 45_host_commands.md R216; log 15). -/
def uLinearAcc (d : Tri Int) (s : State) : State :=
  if s.model.ver = 0#1 then s else { s with acc := (macAcc s.cfg.a1Const s.model d).c2 }

end Sys2Proof.Machine
end

