-- ==== Sys2Proof/Machine/Session.lean ====
section
/-! DEFINITION. The procedures the commands share: P_CONT_START, P_ENABLE, P_DISABLE, P_REAPPLY, P_SAMPLE, TimeNow, P_MEASURE
(45_host_commands.md R185 to R187, R195 to R197; 60_exceptions.md R236, R237). -/

namespace Sys2Proof.Machine

/-- P_CONT_START: start continuous conversion and wait one conversion time (R187). -/
def pContStart : Proc Unit := fun s =>
  ((primMemWrite s.cfg.dev.regCmd (cmdByte s.cfg false false true)).andThen (primSleep (latency s.cfg s.avg))) s

/-- P_ENABLE: open, reset and decode, start; on a failure after the open, close and return the failure (R185). -/
def pEnable : Proc Unit :=
  primBusOpen.andThen <|
  (pResetDecode.andThen pContStart).attempt.bind fun e =>
  match e with
  | .ok _ => Proc.modify fun s => { s with enable := true }
  | .error k => (primBusClose.ignore).andThen (raise k)

/-- P_DISABLE: reset write and close both attempted, ENABLE 0 in every case, the first failure reported (R186). -/
def pDisable : Proc Unit := fun s =>
  ((primMemWrite s.cfg.dev.regSrst s.cfg.dev.valSrst).attempt.bind fun e1 =>
   primBusClose.attempt.bind fun e2 =>
   (Proc.modify fun t => { t with enable := false }).andThen <|
   (reraise e1).andThen (reraise e2)) s

/-- P_REAPPLY: disable, then enable (R195). -/
def pReapply : Proc Unit := pDisable.andThen pEnable

/-- Capture a sample: RAW and LAST_RAW, busy or not (R196). -/
def captureSample (D : Fin 8 → Byte) (s : State) : State :=
  { s with
    raw := parseSample D
    lastRaw := (rawWords (parseSample D)).map (BitVec.setWidth 16)
    lastRawT := (parseSample D).t }

/-- P_SAMPLE: read, capture, correct, overflow mask (R196). -/
def pSample : Proc Unit := fun s =>
  ((primMemRead s.cfg.dev.regData 8).bind fun D =>
   Proc.modify fun t => uOvf (uCorrect (rawWords (parseSample D)) (captureSample D t))) s

/-- `TimeNow()`: the environment's clock, or the logical clock (R236). -/
def timeNow : Proc Word := fun s => if s.cfg.hasClock then primNow s else .ok s.lclk s

/-- Step 1 of P_MEASURE: without a clock the logical clock advances by DELAY, modulo 2^32 (R237). -/
def tickClock (s : State) : State := if s.cfg.hasClock then s else { s with lclk := s.lclk + s.delay }

/-- Steps 5 to 8 of P_MEASURE: busy test, time, state machine, response (R197). -/
def judgeSample : Proc Response := fun s =>
  if s.raw.busy then .err .busy s
  else (timeNow.bind fun now => (uFsm now).andThen fun t => .ok (sampleResponse t.q) t) s

/-- P_MEASURE (R197). -/
def pMeasure : Proc Response := fun s =>
  if !s.enable then .ok okEmpty (tickClock s)
  else
    (pSample.andThen <| (Proc.modify fun t => uQuant (uOrient (uConv t))).andThen judgeSample) (tickClock s)

end Sys2Proof.Machine
end

