-- ==== Sys2Proof/Machine/Lifecycle.lean ====
section
/-! DEFINITION. The lifecycle commands: INIT, TERM, SET_ENABLE, GET_ENABLE (45_host_commands.md R182 to R184, R188). -/

namespace Sys2Proof.Machine

/-- What a successful INIT writes; VER, A2..A9 and K are not written (R182, 70_reset_and_hazards.md R251). -/
def initSession (s : State) : State :=
  { s with
    delay := s.cfg.delayDefault
    avg := s.cfg.avgDefault
    position := s.cfg.posDefault
    enable := false
    mstate := mNormal
    invalid := false
    onset := 0
    lclk := 0
    hwoff := ⟨0, 0, 0⟩
    lastRaw := ⟨0, 0, 0⟩
    lastRawT := 0
    base := s.cfg.baseReset
    initialized := true }

/-- The bus part of INIT once the bus is known to be closed: open, identity read, close, compare (R182). The read and the close
follow a successful open, so their precondition `BUSOPEN = 1` holds and the transactions' effects are taken directly. -/
def identifyAndInit (s : State) : State :=
  if busOkAt s 0 then
    let opened := openEffect s
    let read := readEffect s.cfg.dev.regId 1 opened
    let closed := closeEffect read
    if !busOkAt opened 0 then respondError .deviceCommunication closed
    else if !busOkAt read 0 then respondError .deviceCommunication closed
    else if readData opened 1 0 ≠ s.cfg.chipId then respondError .chipIdMismatch closed
    else deliver okEmpty (initSession closed)
  else respondError .deviceCommunication (openEffect s)

/-- INIT (R182). -/
def execInit (s : State) : Host.Outcome State Fault Refusal :=
  if s.initialized then .next (respondError .alreadyInitialized s)
  else if s.busOpen then .fault .busAlreadyOpen
  else .next (identifyAndInit s)

/-- The body of TERM: disable if enabled, uninitialised whether or not that succeeded (R183). -/
def pTerm : Proc Response := fun s =>
  ((if s.enable then pDisable.attempt else Proc.pure (.ok ())).bind fun e =>
   (Proc.modify fun t => { t with initialized := false }).andThen <|
   match e with
   | .ok _ => Proc.pure okEmpty
   | .error _ => raise .deviceCommunication) s

/-- TERM (R183). -/
def execTerm (s : State) : Host.Outcome State Fault Refusal := guarded pTerm s

/-- The body of SET_ENABLE: nothing when the value is already held (R184). -/
def pSetEnable (arg : Word) : Proc Response := fun s =>
  if wantEnable arg = s.enable then .ok okEmpty s
  else ((if wantEnable arg then pEnable else pDisable).andThen (Proc.pure okEmpty)) s

/-- SET_ENABLE (R184). -/
def execSetEnable (arg : Word) (s : State) : Host.Outcome State Fault Refusal := guarded (pSetEnable arg) s

/-- GET_ENABLE (R188). -/
def execGetEnable (s : State) : Host.Outcome State Fault Refusal :=
  guarded (Proc.pure (okResponse (boolWord s.enable) 0 0 0)) s

end Sys2Proof.Machine
end

