-- ==== Sys2Proof/Machine/Readout.lean ====
section
/-! DEFINITION. MEASURE and the two read-backs of EXT (45_host_commands.md R197, R199, R200). -/

namespace Sys2Proof.Machine

/-- MEASURE (R197). -/
def execMeasure (s : State) : Host.Outcome State Fault Refusal := guarded pMeasure s

/-- EXT_GET_RAW: LAST_RAW, zero-extended (R199). -/
def execExtGetRaw (s : State) : Host.Outcome State Fault Refusal :=
  guarded (Proc.pure (okResponse (s.lastRaw.c0.setWidth 32) (s.lastRaw.c1.setWidth 32) (s.lastRaw.c2.setWidth 32)
    (s.lastRawT.setWidth 32))) s

/-- EXT_GET_HW_OFFSET: HWOFF, sign-extended (R200). -/
def execExtGetHwOffset (s : State) : Host.Outcome State Fault Refusal :=
  guarded (Proc.pure (okResponse (s.hwoff.c0.signExtend 32) (s.hwoff.c1.signExtend 32) (s.hwoff.c2.signExtend 32) 0)) s

end Sys2Proof.Machine
end

