-- ==== Sys2Proof/Machine/SelfTest.lean ====
section
/-! DEFINITION. Unit 5, the self-test controller: EXT_SELF_TEST, EXT_SENSITIVITY, EXT_NOISE_TEST and their shared procedures
(44_self_test_controller.md R155 to R167). -/

namespace Sys2Proof.Machine

/-- P_SINGLE_SHOT(ldtc, fors) (R156). -/
def pSingleShot (ldtc fors : Bool) : Proc Unit := fun s =>
  ((primMemWrite s.cfg.dev.regCmd (cmdByte s.cfg ldtc fors false)).andThen <|
   (primSleep (latency s.cfg s.avg)).andThen <|
   pSample.andThen fun t => if t.raw.busy then .err .busy t else .ok () t) s

/-- The reset write and the close of P_RESTORE, where the bus is open; their failures are discarded (R157). -/
def releaseBus : Proc Unit := fun s =>
  if s.busOpen then
    ((primMemWrite s.cfg.dev.regSrst s.cfg.dev.valSrst).ignore.andThen primBusClose.ignore) s
  else .ok () s

/-- P_RESTORE(was): restart continuous mode, or release the bus and disable (R157). -/
def pRestore (was : Bool) : Proc Unit :=
  if was then pContStart.ignore else releaseBus.andThen (Proc.modify fun s => { s with enable := false })

/-- The error an overflow mask gives: overflow first, then underflow (R161, R164). -/
def checkMask (m : BitVec 6) : Proc Unit :=
  if anyOverflow m then raise .overflowDetected
  else if anyUnderflow m then raise .underflowDetected
  else Proc.pure ()

/-- `dir[i] = tdiv(P[i], 1000)` (R160 step 5). -/
def direction (p : Tri Word) : Tri Int := p.map fun x => x.toInt.tdiv 1000

/-- Steps 6 and 7 of EXT_SELF_TEST: the zero test and the result (R160). -/
def directionResult (d : Tri Int) : Proc Response :=
  if d.c0 = 0 ∧ d.c1 = 0 ∧ d.c2 = 0 then raise .directionCalcFailed
  else Proc.pure (okResponse (word32 d.c0) (word32 d.c1) (word32 d.c2) 0)

/-- Steps 4 to 7 of EXT_SELF_TEST, on the sample of the shot: flag test, conversion, zero test (R160). -/
def judgeDirection : Proc Response := fun s =>
  ((checkMask s.ovf).andThen <| (Proc.modify uConv).andThen fun t => directionResult (direction t.p) t) s

/-- The body of EXT_SELF_TEST (R160). -/
def selfTestBody (was : Bool) : Proc Response :=
  (if was then Proc.pure () else primBusOpen).andThen <|
  (pResetDecode.andThen (pSingleShot false false)).andThen judgeDirection

/-- EXT_SELF_TEST (R160). -/
def execExtSelfTest (s : State) : Host.Outcome State Fault Refusal :=
  guarded ((selfTestBody s.enable).withCleanup (pRestore s.enable)) s

/-- `d[i] = p[i] - m[i]` on the uncorrected words (R163). -/
def shotDifference (p m : Tri (BitVec 16)) : Tri Int := p.zip (fun a b => (a.toNat : Int) - (b.toNat : Int)) m

/-- `sx` and `sy` from `h = L(d)` (R163); the order of the two divisions of `sy` is the rule's. -/
def sensFactors (vcore : Nat) (h : Tri Int) : Int × Int :=
  ((h.c0 * 300).tdiv vcore, (((h.c1 - h.c2) * 1732).tdiv 10).tdiv vcore)

/-- Steps 4 to 6 of EXT_SENSITIVITY after both shots (R162, R164). -/
def sensResult (p : Tri (BitVec 16)) (fp : BitVec 6) : Proc Response := fun s =>
  ((Proc.modify (uLinearAcc (shotDifference p s.lastRaw))).andThen <|
   (checkMask (fp ||| s.ovf)).andThen <|
   Proc.pure (okResponse (word32 (sensFactors s.cfg.sensVcore (linearPart s (shotDifference p s.lastRaw))).1)
     (word32 (sensFactors s.cfg.sensVcore (linearPart s (shotDifference p s.lastRaw))).2) 0 0)) s

/-- Steps 2 to 6 of EXT_SENSITIVITY: two shots under opposite polarity, the words and the mask of the first kept (R162). -/
def twoShots : Proc Response :=
  (pSingleShot true false).andThen fun s => ((pSingleShot true true).andThen (sensResult s.lastRaw s.ovf)) s

/-- The body of EXT_SENSITIVITY (R162). -/
def sensitivityBody (was : Bool) : Proc Response :=
  (if was then Proc.pure () else primBusOpen.andThen pResetDecode).andThen twoShots

/-- EXT_SENSITIVITY (R162). -/
def execExtSensitivity (s : State) : Host.Outcome State Fault Refusal :=
  guarded ((sensitivityBody s.enable).withCleanup (pRestore s.enable)) s

/-- `n[i] = LAST_RAW[i] - 8192` (R165). -/
def noiseDeviation (w : BitVec 16) : Word := word32 ((w.toNat : Int) - 8192)

/-- The body of EXT_NOISE_TEST: one live-pipeline sample, dropped (R165). -/
def noiseBody (was : Bool) : Proc Response :=
  (if was then Proc.pure () else pEnable).andThen <|
  pMeasure.bind fun _ => fun s =>
  .ok (okResponse (noiseDeviation s.lastRaw.c0) (noiseDeviation s.lastRaw.c1) (noiseDeviation s.lastRaw.c2) 0) s

/-- The cleanup of EXT_NOISE_TEST: disable what the body enabled (R165). -/
def noiseCleanup (was : Bool) : Proc Unit := fun s =>
  if !was && s.enable then pDisable.ignore s else .ok () s

/-- EXT_NOISE_TEST (R165). -/
def execExtNoiseTest (s : State) : Host.Outcome State Fault Refusal :=
  guarded ((noiseBody s.enable).withCleanup (noiseCleanup s.enable)) s

end Sys2Proof.Machine
end

