-- ==== Sys2Proof/Machine/Settings.lean ====
section
/-! DEFINITION. The setting commands: delay, position, averaging (45_host_commands.md R189 to R194). -/

namespace Sys2Proof.Machine

/-- A changed delay or averaging level reaches the sensor by a re-enable, on an enabled session only (R189, R193, R195). -/
def reapplyIfEnabled : Proc Response := fun s =>
  if s.enable then (pReapply.andThen (Proc.pure okEmpty)) s else .ok okEmpty s

/-- The body of SET_DELAY (R189). -/
def pSetDelay (arg : Word) : Proc Response := fun s =>
  if delayLegal arg then reapplyIfEnabled { s with delay := arg } else .err .invalidArgument s

/-- SET_DELAY (R189). -/
def execSetDelay (arg : Word) (s : State) : Host.Outcome State Fault Refusal := guarded (pSetDelay arg) s

/-- GET_DELAY (R190). -/
def execGetDelay (s : State) : Host.Outcome State Fault Refusal := guarded (Proc.pure (okResponse s.delay 0 0 0)) s

/-- The body of SET_POSITION: no bus traffic, no re-enable (R191). -/
def pSetPosition (arg : Word) : Proc Response := fun s =>
  if positionLegal arg then .ok okEmpty { s with position := arg.setWidth 3 } else .err .invalidArgument s

/-- SET_POSITION (R191). -/
def execSetPosition (arg : Word) (s : State) : Host.Outcome State Fault Refusal := guarded (pSetPosition arg) s

/-- GET_POSITION (R192). -/
def execGetPosition (s : State) : Host.Outcome State Fault Refusal :=
  guarded (Proc.pure (okResponse (s.position.setWidth 32) 0 0 0)) s

/-- The body of SET_AVERAGING (R193). -/
def pSetAveraging (arg : Word) : Proc Response := fun s =>
  if averagingLegal arg then reapplyIfEnabled { s with avg := arg.setWidth 2 } else .err .invalidArgument s

/-- SET_AVERAGING (R193). -/
def execSetAveraging (arg : Word) (s : State) : Host.Outcome State Fault Refusal := guarded (pSetAveraging arg) s

/-- GET_AVERAGING (R194). -/
def execGetAveraging (s : State) : Host.Outcome State Fault Refusal :=
  guarded (Proc.pure (okResponse (s.avg.setWidth 32) 0 0 0)) s

end Sys2Proof.Machine
end

