-- ==== Sys2Proof/Machine/Dispatch.lean ====
section
/-! DEFINITION. One arm per command. -/

namespace Sys2Proof.Machine

def exec (i : Instr) (s : State) : Host.Outcome State Fault Refusal :=
  match i with
  | .init => Sys2Proof.Machine.execInit s
  | .term => Sys2Proof.Machine.execTerm s
  | .setEnable arg => Sys2Proof.Machine.execSetEnable arg s
  | .getEnable => Sys2Proof.Machine.execGetEnable s
  | .setDelay arg => Sys2Proof.Machine.execSetDelay arg s
  | .getDelay => Sys2Proof.Machine.execGetDelay s
  | .setPosition arg => Sys2Proof.Machine.execSetPosition arg s
  | .getPosition => Sys2Proof.Machine.execGetPosition s
  | .setAveraging arg => Sys2Proof.Machine.execSetAveraging arg s
  | .getAveraging => Sys2Proof.Machine.execGetAveraging s
  | .measure => Sys2Proof.Machine.execMeasure s
  | .extSelfTest => Sys2Proof.Machine.execExtSelfTest s
  | .extSensitivity => Sys2Proof.Machine.execExtSensitivity s
  | .extNoiseTest => Sys2Proof.Machine.execExtNoiseTest s
  | .extGetRaw => Sys2Proof.Machine.execExtGetRaw s
  | .extGetHwOffset => Sys2Proof.Machine.execExtGetHwOffset s

end Sys2Proof.Machine
end

