-- ==== Sys2Proof/Machine/Step.lean ====
section
/-! DEFINITION. One step: one whole host command (00_scope.md R6), from the port to its response. -/

namespace Sys2Proof.Machine

/-- Take the next command word and run it; an illegal word is answered with its error response (30_encoding.md R74, R79). With
nothing pending the block waits and nothing changes (70_reset_and_hazards.md R250; log 4). -/
def step (s : State) : Host.Outcome State Fault Refusal :=
  match fetchCommand s with
  | none => .next s
  | some (w, s') =>
    match decode w with
    | .command i => exec i s'
    | .illegalOpcode _ => rejectOpcode s'
    | .illegalExt _ => rejectExt s'

/-- The same state with the table word `w` delivered next by the port (log 4). -/
def State.withFetchWord (s : State) (nbits w : Nat) : State := placeCommand (BitVec.ofNat 40 (w % 2 ^ nbits)) s

end Sys2Proof.Machine
end

