-- ==== Sys2Proof/Safety.lean ====
section
/-! DEFINITION. The terms claims use: the invariants of the session, the environment's answers to come, the interactions a
procedure records when all of them succeed, and what a command may answer, write and put on the bus. -/

namespace Sys2Proof.Machine

/-! ### Invariants -/

/-- The coefficient ranges of a version-1 model (10_state.md R21 to R23, 40_calibration_decoder.md R99). -/
structure ModelInRange (m : CorrModel) : Prop where
  a2 : -64 ≤ m.a2.toInt ∧ m.a2.toInt ≤ 63
  a3 : -64 ≤ m.a3.toInt ∧ m.a3.toInt ≤ 63
  a4 : -128 ≤ m.a4.toInt ∧ m.a4.toInt ≤ 127
  a5 : -112 ≤ m.a5.toInt ∧ m.a5.toInt ≤ 399
  a6 : -64 ≤ m.a6.toInt ∧ m.a6.toInt ≤ 63
  a7 : -128 ≤ m.a7.toInt ∧ m.a7.toInt ≤ 127
  a8 : -64 ≤ m.a8.toInt ∧ m.a8.toInt ≤ 63
  a9 : -112 ≤ m.a9.toInt ∧ m.a9.toInt ≤ 399
  k : 0 ≤ m.k.toInt ∧ m.k.toInt ≤ 127

/-- What holds at every command boundary (10_state.md R37 (a), (b), (g), (h)), with a well-formed configuration (R8) and the
ranges of R99. R37 (i) and the bounds of AVG and POSITION hold by the widths of the registers. -/
structure SessionInv (s : State) : Prop where
  cfgWf : s.cfg.wf = true
  enabledInitialized : s.enable = true → s.initialized = true
  busMatchesEnable : s.busOpen = s.enable
  mstateLegal : s.mstate ≠ 3#2
  delayLegal : s.delay.toNat < 2 ^ 31
  modelInRange : s.model.ver = 1#1 → ModelInRange s.model

/-- INVALID is set exactly while the measurement state is not Normal (43_measurement_fsm.md R145, read row by row). -/
def FsmCoherent (s : State) : Prop := s.invalid = true ↔ s.mstate ≠ mNormal

/-! ### The environment's answers to come -/

/-- The next `n` transactions are all answered with success. -/
def AnswersOk (s : State) (n : Nat) : Prop := ∀ k, k < n → busOkAt s k = true

/-- The calibration block the `k`-th transaction from here returns. -/
def blockAt (s : State) (k : Nat) : CalBlock := fun i => busByteAt s k i.val

/-- The sample bytes the `k`-th transaction from here returns. -/
def sampleAt (s : State) (k : Nat) : Fin 8 → Byte := fun i => busByteAt s k i.val

/-- The total of the sleeps in a trace, in microseconds (70_reset_and_hazards.md R262). -/
def totalSleep : List Event → Nat
  | [] => 0
  | .slept us :: es => us + totalSleep es
  | .opened _ :: es => totalSleep es
  | .closed _ :: es => totalSleep es
  | .read _ _ _ :: es => totalSleep es
  | .wrote _ _ _ :: es => totalSleep es
  | .clockRead _ :: es => totalSleep es

/-! ### Interactions of the procedures when every transaction succeeds -/

/-- The events of a list of writes that all succeed. -/
def writeEvents (ws : List (Byte × Byte)) : List Event := ws.map fun w => .wrote w.1 w.2 true

/-- A block that U_CALDEC accepts, with the writes and the commit of its version (40_calibration_decoder.md R91). -/
inductive Accepts (s : State) (B : CalBlock) : List (Byte × Byte) → (State → State) → Prop where
  | v0 : calNonzero B = true → verField B = 0#8 → Accepts s B (v0Writes s.cfg.dev B) (commitV0 B)
  | v1 : calNonzero B = true → verField B = 1#8 → Accepts s B (v1Writes s.cfg.dev B) (commitV1 B)

/-- P_RESET_DECODE's interactions (R100). -/
def resetDecodeEvents (s : State) (B : CalBlock) (ws : List (Byte × Byte)) : List Event :=
  [.wrote s.cfg.dev.regSrst s.cfg.dev.valSrst true, .slept s.cfg.tResetUs,
   .read s.cfg.dev.regCal 17 (some (List.ofFn B))] ++ writeEvents ws ++
  [.wrote s.cfg.dev.regAvr (avrCode s.cfg s.avg) true,
   .wrote s.cfg.dev.regIntrvl (intervalCode s.cfg s.delay s.avg) true]

/-- P_CONT_START's interactions (45_host_commands.md R187). -/
def contStartEvents (s : State) : List Event :=
  [.wrote s.cfg.dev.regCmd (cmdByte s.cfg false false true) true, .slept (latency s.cfg s.avg)]

/-- P_ENABLE's interactions (R185). -/
def enableEvents (s : State) (B : CalBlock) (ws : List (Byte × Byte)) : List Event :=
  [.opened true] ++ resetDecodeEvents s B ws ++ contStartEvents s

/-- P_DISABLE's interactions (R186). -/
def disableEvents (s : State) : List Event := [.wrote s.cfg.dev.regSrst s.cfg.dev.valSrst true, .closed true]

/-- P_SINGLE_SHOT's interactions, with the sample's bytes (44_self_test_controller.md R156). -/
def singleShotEvents (s : State) (ldtc fors : Bool) (D : Fin 8 → Byte) : List Event :=
  [.wrote s.cfg.dev.regCmd (cmdByte s.cfg ldtc fors false) true, .slept (latency s.cfg s.avg),
   .read s.cfg.dev.regData 8 (some (List.ofFn D))]

/-- P_CONT_START's interactions by the answer to its start write: after a failed one no sleep follows (R187). -/
def restartEvents (s : State) (ok : Bool) : List Event :=
  .wrote s.cfg.dev.regCmd (cmdByte s.cfg false false true) ok :: if ok then [.slept (latency s.cfg s.avg)] else []

/-- The reset write and the close by the answer to each: both are attempted (R157, 45_host_commands.md R186). -/
def releaseEvents (s : State) (ok1 ok2 : Bool) : List Event := [.wrote s.cfg.dev.regSrst s.cfg.dev.valSrst ok1, .closed ok2]

/-- P_RESTORE's interactions when its first transaction is the `k`-th from here and the bus is open: the restart on a session
that was enabled, the release on one that was not, whatever the environment answers (R157). -/
def restoreEvents (s : State) (k : Nat) : List Event :=
  if s.enable then restartEvents s (busOkAt s k) else releaseEvents s (busOkAt s k) (busOkAt s (k + 1))

/-- How many transactions P_RESTORE takes when the bus is open (R157). -/
def restoreCount (s : State) : Nat := if s.enable then 1 else 2

/-- The open a diagnostic starts with on a disabled session (R160, R162). -/
def openEvents (s : State) : List Event := if s.enable then [] else [.opened true]

/-- A captured sample with the correction and the mask computed (45_host_commands.md R196). -/
def sampled (D : Fin 8 → Byte) (s : State) : State := uOvf (uCorrect (rawWords (parseSample D)) (captureSample D s))

/-- The output pipeline on a captured sample (R197 step 4). -/
def quantised (s : State) : State := uQuant (uOrient (uConv s))

/-- Enabled with a fresh model: P_RESET_DECODE's register writes around the commit `f`, the bus open (R185). -/
def enabledWith (f : State → State) (s : State) : State :=
  { resetMeasurement (f s) with enable := true, busOpen := true }

/-- The time U_FSM is given (60_exceptions.md R236). -/
def nowOf (s : State) : Word := if s.cfg.hasClock then clockAt s 0 else s.lclk

/-- The state once the time has been asked for: with a clock, one answer of `Now()` is consumed and recorded (R236). -/
def timed (s : State) : State :=
  if s.cfg.hasClock then
    { s with clockScript := s.clockScript.drop 1, clockDraws := s.clockDraws + 1, trace := s.trace ++ [.clockRead (clockAt s 0)] }
  else s

/-- The state of a MEASURE on an enabled session when U_FSM is about to run: the clock ticked, the sample read, corrected,
converted, oriented, quantised, and the time taken (45_host_commands.md R197, steps 1 to 6). -/
def measured (s : State) : State :=
  timed (advance (quantised (sampled (sampleAt s 0) (tickClock s))) 1
    [.read s.cfg.dev.regData 8 (some (List.ofFn (sampleAt s 0)))])

/-- The time of that MEASURE (R136). -/
def measureTime (s : State) : Word := nowOf (tickClock s)

/-- MEASURE reaches U_FSM: an enabled session whose data read succeeds with a sample that is not busy (R197). -/
def SampleReady (s : State) : Prop :=
  s.initialized = true ∧ s.enable = true ∧ s.busOpen = true ∧ busOkAt s 0 = true ∧
    (parseSample (sampleAt s 0)).busy = false

/-- The commands without an operand, whose `arg` is ignored (30_encoding.md R74 (c)). -/
def ignoresArg : Instr → Bool
  | .init | .term | .getEnable | .getDelay | .getPosition | .getAveraging | .measure => true
  | .setEnable _ | .setDelay _ | .setPosition _ | .setAveraging _ | .extSelfTest | .extSensitivity | .extNoiseTest
  | .extGetRaw | .extGetHwOffset => false

/-! ### What a command may answer -/

/-- The status bytes of a list of error kinds, with success. -/
def statusesOf (es : List ErrKind) : List Byte := 0#8 :: es.map statusCode

/-- The error kinds a command may raise (45_host_commands.md R210, one row a line). -/
def mayRaise : Instr → List ErrKind
  | .init => [.alreadyInitialized, .deviceCommunication, .chipIdMismatch]
  | .term => [.notInitialized, .deviceCommunication]
  | .setEnable _ => [.notInitialized, .deviceCommunication, .calibrationInvalid]
  | .getEnable | .getDelay | .getPosition | .getAveraging => [.notInitialized]
  | .setDelay _ => [.notInitialized, .invalidArgument, .deviceCommunication, .calibrationInvalid]
  | .setPosition _ => [.notInitialized, .invalidArgument]
  | .setAveraging _ => [.notInitialized, .invalidArgument, .deviceCommunication, .calibrationInvalid]
  | .measure => [.notInitialized, .deviceCommunication, .busy]
  | .extSelfTest => [.notInitialized, .deviceCommunication, .calibrationInvalid, .busy, .directionCalcFailed,
      .overflowDetected, .underflowDetected]
  | .extSensitivity => [.notInitialized, .deviceCommunication, .calibrationInvalid, .busy, .overflowDetected,
      .underflowDetected]
  | .extNoiseTest => [.notInitialized, .deviceCommunication, .calibrationInvalid, .busy]
  | .extGetRaw | .extGetHwOffset => [.notInitialized]

/-- Whether a command may put anything on the bus in this state (45_host_commands.md R211, with the guard of R181). -/
def mayUseBus : Instr → State → Bool
  | .init, s => !s.initialized
  | .term, s => s.initialized && s.enable
  | .setEnable arg, s => s.initialized && (wantEnable arg != s.enable)
  | .setDelay arg, s => s.initialized && s.enable && delayLegal arg
  | .setAveraging arg, s => s.initialized && s.enable && averagingLegal arg
  | .measure, s => s.initialized && s.enable
  | .extSelfTest, s | .extSensitivity, s | .extNoiseTest, s => s.initialized
  | .getEnable, _ | .getDelay, _ | .setPosition _, _ | .getPosition, _ | .getAveraging, _ | .extGetRaw, _
  | .extGetHwOffset, _ => false

/-! ### What a command may write -/

/-- INIT alone and TERM alone write INITIALIZED (10_state.md R38). -/
def writesInitialized : Instr → Bool
  | .init | .term => true
  | .setEnable _ | .getEnable | .setDelay _ | .getDelay | .setPosition _ | .getPosition | .setAveraging _ | .getAveraging
  | .measure | .extSelfTest | .extSensitivity | .extNoiseTest | .extGetRaw | .extGetHwOffset => false

/-- The commands R38 marks with w for DELAY. -/
def writesDelay : Instr → Bool
  | .init | .setDelay _ => true
  | .term | .setEnable _ | .getEnable | .getDelay | .setPosition _ | .getPosition | .setAveraging _ | .getAveraging
  | .measure | .extSelfTest | .extSensitivity | .extNoiseTest | .extGetRaw | .extGetHwOffset => false

/-- The commands R38 marks with w for AVG. -/
def writesAvg : Instr → Bool
  | .init | .setAveraging _ => true
  | .term | .setEnable _ | .getEnable | .setDelay _ | .getDelay | .setPosition _ | .getPosition | .getAveraging
  | .measure | .extSelfTest | .extSensitivity | .extNoiseTest | .extGetRaw | .extGetHwOffset => false

/-- The commands R38 marks with w for POSITION. -/
def writesPosition : Instr → Bool
  | .init | .setPosition _ => true
  | .term | .setEnable _ | .getEnable | .setDelay _ | .getDelay | .getPosition | .setAveraging _ | .getAveraging
  | .measure | .extSelfTest | .extSensitivity | .extNoiseTest | .extGetRaw | .extGetHwOffset => false

/-- The commands R38 marks with w for ENABLE. -/
def writesEnable : Instr → Bool
  | .init | .term | .setEnable _ | .setDelay _ | .setAveraging _ | .extSelfTest | .extSensitivity | .extNoiseTest => true
  | .getEnable | .getDelay | .setPosition _ | .getPosition | .getAveraging | .measure | .extGetRaw | .extGetHwOffset => false

/-- The commands R38 marks with w for MSTATE, INVALID, ONSET (its rows for BASE agree). EXT_SENSITIVITY only if it had to
reload, which is on a disabled session. -/
def writesFsm : Instr → State → Bool
  | .init, _ | .setEnable _, _ | .setDelay _, _ | .setAveraging _, _ | .measure, _ | .extSelfTest, _ | .extNoiseTest, _ => true
  | .extSensitivity, s => !s.enable
  | .term, _ | .getEnable, _ | .getDelay, _ | .setPosition _, _ | .getPosition, _ | .getAveraging, _ | .extGetRaw, _
  | .extGetHwOffset, _ => false

/-- The commands R38 marks with w for LCLK. -/
def writesLclk : Instr → Bool
  | .init | .measure | .extNoiseTest => true
  | .term | .setEnable _ | .getEnable | .setDelay _ | .getDelay | .setPosition _ | .getPosition | .setAveraging _
  | .getAveraging | .extSelfTest | .extSensitivity | .extGetRaw | .extGetHwOffset => false

/-- The commands that may write VER, A2..A9, K (R38, 40_calibration_decoder.md R101): those that may run P_RESET_DECODE. -/
def writesModel : Instr → State → Bool
  | .setEnable _, _ | .setDelay _, _ | .setAveraging _, _ | .extSelfTest, _ => true
  | .extSensitivity, s | .extNoiseTest, s => !s.enable
  | .init, _ | .term, _ | .getEnable, _ | .getDelay, _ | .setPosition _, _ | .getPosition, _ | .getAveraging, _ | .measure, _
  | .extGetRaw, _ | .extGetHwOffset, _ => false

/-- The commands R38 marks with w for HWOFF. -/
def writesHwoff : Instr → State → Bool
  | .init, _ | .setEnable _, _ | .setDelay _, _ | .setAveraging _, _ | .extSelfTest, _ => true
  | .extSensitivity, s | .extNoiseTest, s => !s.enable
  | .term, _ | .getEnable, _ | .getDelay, _ | .setPosition _, _ | .getPosition, _ | .getAveraging, _ | .measure, _
  | .extGetRaw, _ | .extGetHwOffset, _ => false

/-- The commands R38 marks with w for LAST_RAW. -/
def writesLastRaw : Instr → Bool
  | .init | .measure | .extSelfTest | .extSensitivity | .extNoiseTest => true
  | .term | .setEnable _ | .getEnable | .setDelay _ | .getDelay | .setPosition _ | .getPosition | .setAveraging _
  | .getAveraging | .extGetRaw | .extGetHwOffset => false

/-! ### What a state tells, less the registers that carry nothing -/

/-- The model with the coefficients blanked under VER 0, where no rule reads them (10_state.md R37 (d)). -/
def readableModel (m : CorrModel) : CorrModel := if m.ver = 0#1 then ⟨0, 0, 0, 0, 0, 0, 0, 0, 0, 0⟩ else m

/-- The state with the working registers of 10_state.md R27 to R31 blanked, and A2..A9 and K blanked under VER 0: what is
left must decide every later answer (R10: the working registers "carry no information from one command to the next"). -/
def forgetUnread (s : State) : State :=
  { s with
    model := readableModel s.model
    raw := ⟨0, 0, 0, 0, false, false⟩
    c := ⟨0, 0, 0⟩
    ovf := 0
    p := ⟨0, 0, 0⟩
    v := ⟨0, 0, 0⟩
    q := ⟨0, 0, 0⟩
    acc := 0 }

/-- The outcome of a step with the same blanked in a next state. -/
def forgetOutcome : Host.Outcome State Fault Refusal → Host.Outcome State Fault Refusal
  | .next t => .next (forgetUnread t)
  | .fault f => .fault f
  | .refused r => .refused r

end Sys2Proof.Machine
end

