-- ==== Sys2Proof/Certificates/Slice0/Obligations.lean ====
section
/-! DEFINITION. The statements for the provers, from the numbered rules of spec/. -/

open Sys2Proof Sys2Proof.Machine

/-! ### Encodings -/

/-- R61, R63, R64, R77: encoding a command and decoding the word gives the command back, with every operand. -/
def Obligations.DecodeEncodeRoundTrip : Prop :=
  ∀ i : Instr, i.wf = true → decode (encode i) = .command i

/-- R63, R64: the command map, for every operand, and the illegal opcodes and sub-command numbers. -/
def Obligations.CommandMap : Prop :=
  ∀ arg : Word,
    decode (0x01#8 ++ arg) = .command .init ∧
    decode (0x02#8 ++ arg) = .command .term ∧
    decode (0x03#8 ++ arg) = .command (.setEnable arg) ∧
    decode (0x04#8 ++ arg) = .command .getEnable ∧
    decode (0x05#8 ++ arg) = .command (.setDelay arg) ∧
    decode (0x06#8 ++ arg) = .command .getDelay ∧
    decode (0x07#8 ++ arg) = .command (.setPosition arg) ∧
    decode (0x08#8 ++ arg) = .command .getPosition ∧
    decode (0x09#8 ++ arg) = .command (.setAveraging arg) ∧
    decode (0x0A#8 ++ arg) = .command .getAveraging ∧
    decode (0x0B#8 ++ arg) = .command .measure ∧
    decode (0x0C#8 ++ 1#32) = .command .extSelfTest ∧
    decode (0x0C#8 ++ 2#32) = .command .extSensitivity ∧
    decode (0x0C#8 ++ 3#32) = .command .extNoiseTest ∧
    decode (0x0C#8 ++ 4#32) = .command .extGetRaw ∧
    decode (0x0C#8 ++ 5#32) = .command .extGetHwOffset ∧
    ((arg.toNat = 0 ∨ 5 < arg.toNat) → decode (0x0C#8 ++ arg) = .illegalExt arg) ∧
    (∀ op : Byte, (op.toNat = 0 ∨ 0x0D ≤ op.toNat) → decode (op ++ arg) = .illegalOpcode op)

/-- R79, R74 (c): a decoded word keeps its opcode and, unless the command takes no operand, its whole `arg`. -/
def Obligations.DecodedWordKeepsItsBits : Prop :=
  ∀ (w : CommandWord) (i : Instr), decode w = .command i →
    opcodeOf i = opField w ∧ (ignoresArg i = false → encode i = w) ∧ (ignoresArg i = true → encodedArg i = 0)

/-- Words written out from R61 to R64, and the commands they stand for. -/
def Obligations.TableWordsDecode : Prop :=
  decode 0b0000000100000000000000000000000000000000#40 = .command .init ∧
  decode 0b0000001100000000000000000000000000000001#40 = .command (.setEnable 1) ∧
  decode 0b0000010100000000000000000000000011111010#40 = .command (.setDelay 250) ∧
  decode 0b0000101100000000000000000000000000000000#40 = .command .measure ∧
  decode 0b0000110000000000000000000000000000000010#40 = .command .extSensitivity

/-- R62, R73: the place of each field in the 144 bits of the response record, the status codes, and what a success without a
result and an error deliver. -/
def Obligations.ResponseEncoding : Prop :=
  (∀ r : Response,
    (responseBits r).extractLsb' 136 8 = r.status ∧ (responseBits r).extractLsb' 128 8 = r.count ∧
    (responseBits r).extractLsb' 96 32 = r.r0 ∧ (responseBits r).extractLsb' 64 32 = r.r1 ∧
    (responseBits r).extractLsb' 32 32 = r.r2 ∧ (responseBits r).extractLsb' 0 32 = r.r3) ∧
  okEmpty = ⟨0, 0, 0, 0, 0, 0⟩ ∧ (∀ e : ErrKind, errorResponse e = ⟨statusCode e, 0, 0, 0, 0, 0⟩) ∧
  statusCode .notInitialized = 1 ∧ statusCode .alreadyInitialized = 2 ∧
  statusCode .invalidArgument = 3 ∧ statusCode .deviceCommunication = 4 ∧ statusCode .chipIdMismatch = 5 ∧
  statusCode .calibrationInvalid = 6 ∧ statusCode .busy = 7 ∧ statusCode .directionCalcFailed = 8 ∧
  statusCode .overflowDetected = 9 ∧ statusCode .underflowDetected = 10

/-- R69, R196: every field of the sample is where the rule puts it, and the ignored bits reach nothing; P_SAMPLE reads the
eight bytes and stores the fields in RAW, the three words zero-extended and the temperature word in LAST_RAW, busy or not, and
corrects `(x, y1, y2)`; when the read fails it writes nothing. -/
def Obligations.SampleFieldsParsed : Prop :=
  (∀ (t : BitVec 16) (busy bad : Bool) (x y1 y2 : BitVec 14) (i1 i2 : BitVec 2),
    parseSample (fun j => (t ++ BitVec.ofBool busy ++ BitVec.ofBool bad ++ x ++ i1 ++ y1 ++ i2 ++ y2 : BitVec 64).extractLsb'
      (8 * (7 - j.val)) 8) = ⟨t, x, y1, y2, busy, bad⟩) ∧
  (∀ (s : State) (D : Fin 8 → Byte), sampled D s =
    uOvf (uCorrect ⟨(parseSample D).x, (parseSample D).y1, (parseSample D).y2⟩ { s with
      raw := parseSample D
      lastRaw := ⟨BitVec.ofNat 16 (parseSample D).x.toNat, BitVec.ofNat 16 (parseSample D).y1.toNat,
        BitVec.ofNat 16 (parseSample D).y2.toNat⟩
      lastRawT := (parseSample D).t })) ∧
  (∀ s : State, s.busOpen = true →
    (busOkAt s 0 = true → pSample s = .ok () (advance (sampled (sampleAt s 0) s) 1
      [.read s.cfg.dev.regData 8 (some (List.ofFn (sampleAt s 0)))])) ∧
    (busOkAt s 0 = false → pSample s = .err .deviceCommunication (advance s 1 [.read s.cfg.dev.regData 8 none])))

/-! ### Steps, the port, the invariants -/

/-- R180, R181 (1): when the word at the port decodes to a command, a step is that command's `exec` on the state with the word
taken from the port and an empty trace. -/
def Obligations.StepRunsDecodedCommand : Prop :=
  ∀ (s : State) (w : CommandWord) (rest : List CommandWord) (i : Instr),
    s.port = w :: rest → decode w = .command i → i.wf = true →
    step s = exec i { s with port := rest, trace := [] }

/-- R74 (a), (b), R79, R181, R198: a word with an illegal opcode is answered with InvalidArgument in any mode; an unknown EXT
number is answered after the lifecycle guard; neither changes a register. -/
def Obligations.StepAnswersIllegalWords : Prop :=
  ∀ (s : State) (w : CommandWord) (rest : List CommandWord), s.port = w :: rest →
    (((opField w).toNat = 0 ∨ 0x0D ≤ (opField w).toNat) →
      step s = .next { s with port := rest, trace := [], response := some (errorResponse .invalidArgument) }) ∧
    (opField w = 0x0C#8 → ((argField w).toNat = 0 ∨ 5 < (argField w).toNat) → s.initialized = true →
      step s = .next { s with port := rest, trace := [], response := some (errorResponse .invalidArgument) }) ∧
    (opField w = 0x0C#8 → ((argField w).toNat = 0 ∨ 5 < (argField w).toNat) → s.initialized = false →
      step s = .next { s with port := rest, trace := [], response := some (errorResponse .notInitialized) })

/-- R250 gives INITIALIZED, ENABLE and BUSOPEN 0 and no bus transaction. That the invariants hold at reset rests on the zero
the model names for the other registers (log 1) and on the default configuration (log 2). -/
def Obligations.ResetMeetsInvariants : Prop :=
  State.reset.initialized = false ∧ State.reset.enable = false ∧ State.reset.busOpen = false ∧ State.reset.trace = [] ∧
  SessionInv State.reset ∧ FsmCoherent State.reset

/-- R37 (a), (b), (g), (h), R99: every step keeps the session's invariants. -/
def Obligations.StepKeepsSessionInv : Prop :=
  ∀ s t : State, SessionInv s → step s = .next t → SessionInv t

/-- R145, read row by row: every step keeps INVALID set exactly while the measurement state is not Normal. -/
def Obligations.StepKeepsFsmCoherence : Prop :=
  ∀ s t : State, FsmCoherent s → step s = .next t → FsmCoherent t

/-- R37, R41 to R43: from a state with the session's invariants no step faults or refuses; every precondition of a bus
primitive holds where it is called. That every step answers, so that every command ends, holds only under the assumption that
the environment answers every transaction, as R261 allows (log 16). -/
def Obligations.SessionNeverStops : Prop := ∀ s : State, SessionInv s → ∃ t : State, step s = .next t

/-- R10, R37 (d), R56: the working registers, and the coefficients under VER 0, carry nothing to the next command: two states
that agree on the rest take steps with the same outcome, response, trace and registers, up to the same. -/
def Obligations.UnreadRegistersCarryNothing : Prop :=
  ∀ s t : State, forgetUnread s = forgetUnread t → forgetOutcome (step s) = forgetOutcome (step t)

/-! ### Unit 1: the calibration decoder -/

/-- R66, R67, R91 to R96, R98: under the default layout the nine values are the rule's byte pieces less their biases. A block
that is not all zero outside its version bits and has version 0 or 1, and whose writes all succeed, is committed: VER and, for
version 1, the decoded model; HWOFF from bytes 12 to 14; no other register of the spec. Under version 0 the coefficients are
free values, which the model numbers by a counter of its own (log 9). -/
def Obligations.DecodedFieldsOfBlock : Prop :=
  (∀ B : CalBlock,
      (decodeModel defaultLayout B).ver = 1 ∧
      (decodeModel defaultLayout B).a2.toInt = ((((B 3).toNat % 32) * 4 + (B 4).toNat / 64 : Nat) : Int) - 64 ∧
      (decodeModel defaultLayout B).a3.toInt = ((((B 4).toNat % 64) * 2 + (B 5).toNat / 128 : Nat) : Int) - 64 ∧
      (decodeModel defaultLayout B).a4.toInt = ((((B 5).toNat % 128) * 2 + (B 6).toNat / 128 : Nat) : Int) - 128 ∧
      (decodeModel defaultLayout B).a5.toInt = ((((B 6).toNat % 128) * 4 + (B 7).toNat / 64 : Nat) : Int) - 112 ∧
      (decodeModel defaultLayout B).a6.toInt = ((((B 7).toNat % 64) * 2 + (B 8).toNat / 128 : Nat) : Int) - 64 ∧
      (decodeModel defaultLayout B).a7.toInt = ((((B 8).toNat % 128) * 2 + (B 9).toNat / 128 : Nat) : Int) - 128 ∧
      (decodeModel defaultLayout B).a8.toInt = (((B 9).toNat % 128 : Nat) : Int) - 64 ∧
      (decodeModel defaultLayout B).a9.toInt = (((B 10).toNat * 2 + (B 11).toNat / 128 : Nat) : Int) - 112 ∧
      (decodeModel defaultLayout B).k.toInt = (((B 11).toNat % 128 : Nat) : Int)) ∧
  (∀ (s : State) (B : CalBlock), s.busOpen = true →
    ((∃ i : Fin 17, i.val < 16 ∧ B i ≠ 0) ∨ (B 16).toNat % 64 ≠ 0) →
    ((B 16).toNat < 64 → AnswersOk s 17 → ∃ m : CorrModel, m.ver = 0#1 ∧
      uCaldec B s = .ok () { advance s 17 (writeEvents (v0Writes s.cfg.dev B)) with
        model := m, hwoff := ⟨B 12, B 13, B 14⟩, freeDraws := s.freeDraws + 1 }) ∧
    (64 ≤ (B 16).toNat → (B 16).toNat < 128 → AnswersOk s 10 →
      uCaldec B s = .ok () { advance s 10 (writeEvents (v1Writes s.cfg.dev B)) with
        model := decodeModel s.cfg.calLayout B, hwoff := ⟨B 12, B 13, B 14⟩ }))

/-- R67, R99, D5: for every block and every layout, wherever it takes a field's bits from: bit `i` of a field is the bit of
bytes 3 to 11 that the layout names, counted in the 72-bit string with byte 3 first; each value is its field less its bias;
and the ranges. -/
def Obligations.DecodedRanges : Prop :=
  (∀ (B : CalBlock) (w : Nat) (bits : Vector (Fin 72) w), 0 ≤ calField B bits ∧ calField B bits < 2 ^ w ∧
    ∀ i : Fin w, (calField B bits).toNat.testBit i.val =
      (B ⟨3 + (71 - (bits.get i).val) / 8, by omega⟩).getLsbD ((bits.get i).val % 8)) ∧
  (∀ (l : CalLayout) (B : CalBlock),
    (decodeModel l B).a2.toInt = calField B l.a2 - 64 ∧ (decodeModel l B).a3.toInt = calField B l.a3 - 64 ∧
    (decodeModel l B).a4.toInt = calField B l.a4 - 128 ∧ (decodeModel l B).a5.toInt = calField B l.a5 - 112 ∧
    (decodeModel l B).a6.toInt = calField B l.a6 - 64 ∧ (decodeModel l B).a7.toInt = calField B l.a7 - 128 ∧
    (decodeModel l B).a8.toInt = calField B l.a8 - 64 ∧ (decodeModel l B).a9.toInt = calField B l.a9 - 112 ∧
    (decodeModel l B).k.toInt = calField B l.k ∧ ModelInRange (decodeModel l B))

/-- R91 to R93, R97: a block that is all zero outside its version bits, or whose version is 2 or 3, ends the decode with
CalibrationInvalid, no bus write and no state change; the zero validation passes exactly the blocks with a bit set in bytes 0
to 15 or in the low six bits of byte 16, and the version is the top two bits of byte 16. -/
def Obligations.InvalidBlockChangesNothing : Prop :=
  ∀ (s : State) (B : CalBlock),
    (((∀ i : Fin 17, i.val < 16 → B i = 0) ∧ (B 16).toNat % 64 = 0) ∨ 128 ≤ (B 16).toNat →
      uCaldec B s = .err .calibrationInvalid s) ∧
    (calNonzero B = true ↔ (∃ i : Fin 17, i.val < 16 ∧ B i ≠ 0) ∨ (B 16).toNat % 64 ≠ 0) ∧
    (verField B).toNat = (B 16).toNat / 64

/-- R98: a decode that fails, wherever it fails, leaves the model and HWOFF as they were; when one of the writes of an accepted
block fails, it is the last one issued. -/
def Obligations.FailedDecodeCommitsNothing : Prop :=
  (∀ (s t : State) (B : CalBlock) (e : ErrKind), uCaldec B s = .err e t →
    t.model = s.model ∧ t.hwoff = s.hwoff ∧ t.freeDraws = s.freeDraws) ∧
  (∀ (s : State) (B : CalBlock) (ws : List (Byte × Byte)) (f : State → State) (k : Nat) (hk : k < ws.length),
    s.busOpen = true → Accepts s B ws f → AnswersOk s k → busOkAt s k = false →
    uCaldec B s = .err .deviceCommunication
      (advance s (k + 1) (writeEvents (ws.take k) ++ [.wrote ws[k].1 ws[k].2 false])))

/-- R94, R95 under the default DEVCFG of R44: the decoder's writes, address and byte, in order. The addresses are the
spec's own recollection (log 11). -/
def Obligations.DecoderWriteLists : Prop :=
  ∀ B : CalBlock,
    v0Writes defaultDev B =
      [(0x93#8, B 0), (0x94#8, B 1), (0x95#8, B 2), (0x96#8, B 3), (0x97#8, B 4), (0x98#8, B 5), (0x99#8, B 6), (0x9A#8, B 7), (0x9B#8, B 8),
       (0x9C#8, B 9), (0x9D#8, B 10), (0x9E#8, B 11), (0x84#8, B 12), (0x85#8, B 13), (0x86#8, B 14), (0x88#8, B 15), (0x89#8, B 16)] ∧
    v1Writes defaultDev B =
      [(0x93#8, B 0), (0x84#8, B 12), (0x94#8, B 1), (0x85#8, B 13), (0x95#8, B 2), (0x86#8, B 14), (0x96#8, (B 3 &&& 0xE0#8) ||| 0x10#8),
       (0x88#8, (B 15 >>> 3) &&& 0x1E#8), (0x89#8, (B 15 <<< 1) &&& 0x1E#8), (0x9E#8, B 16 &&& 0x3F#8)]

/-- R8, R75, R44, R14, R262: the bytes of the start, averaging and interval writes, the two sleeps, and the other defaults. For
every record a start command has exactly the bits its three arguments select, and an interval override (the model's form, log
13) is the byte written; the rest is the values of the default record, most of which the spec marks as its own recollection
(log 11). -/
def Obligations.CommandBytesAndLatencies : Prop :=
  (∀ (c : Config) (ldtc fors cont : Bool) (i : Nat), (cmdByte c ldtc fors cont).getLsbD i =
    (c.dev.valCmdStart.getLsbD i || (ldtc && c.dev.valCmdLdtc.getLsbD i) || (fors && c.dev.valCmdFors.getLsbD i) ||
      (cont && c.dev.valCmdCont.getLsbD i))) ∧
  (∀ (c : Config) (d : Word) (a : BitVec 2) (b : Byte), intervalCode { c with
    intervalOverrides := ((d, a), b) :: c.intervalOverrides } d a = b) ∧
  cmdByte defaultConfig false false true = 0x21#8 ∧ cmdByte defaultConfig false false false = 0x01#8 ∧
  cmdByte defaultConfig true false false = 0x03#8 ∧ cmdByte defaultConfig true true false = 0x07#8 ∧
  (∀ (d : Word) (a : BitVec 2), (intervalCode defaultConfig d a).toNat = min 255 d.toNat) ∧
  (∀ a : BitVec 2, (avrCode defaultConfig a).toNat = 0x70 + a.toNat) ∧
  latency defaultConfig 0#2 = 2000 ∧ latency defaultConfig 1#2 = 4000 ∧ latency defaultConfig 2#2 = 8000 ∧
  latency defaultConfig 3#2 = 16000 ∧ defaultConfig.tResetUs = 4000 ∧
  defaultConfig.initCoilTimeoutMs = 1000 ∧ defaultConfig.delayDefault = 50 ∧ defaultConfig.avgDefault = 0 ∧
  defaultConfig.posDefault = 2 ∧ defaultConfig.baseReset = ⟨8192, 8192, 8192⟩ ∧ defaultConfig.a1Const = 128 ∧
  defaultConfig.sensVcore = 18 ∧ defaultConfig.chipId = 0x07 ∧ defaultConfig.orient = defaultOrient ∧
  defaultConfig.calLayout = defaultLayout ∧ defaultConfig.dev = defaultDev ∧
  defaultDev.regId = 0x80 ∧ defaultDev.regCmd = 0x81 ∧ defaultDev.regConf = 0x82 ∧ defaultDev.regIntrvl = 0x83 ∧
  defaultDev.regAvr = 0x87 ∧ defaultDev.regSrst = 0x90 ∧ defaultDev.regData = 0xB0 ∧ defaultDev.regCal = 0xC0 ∧
  defaultDev.valSrst = 0x02 ∧ defaultDev.valConfRcoil = 0x08

/-! ### Units 2 and 3: the correction and the quantizer -/

/-- R111, R112, R113: the corrected words, exactly: the identity under VER 0; under VER 1 the clamped, truncated row
products, with no accumulator leaving 32 bits. Everything but C and ACC is unchanged. -/
def Obligations.CorrectionMatchesFormula : Prop :=
  ∀ (s : State) (w : Tri (BitVec 14)),
    (s.model.ver = 0#1 → uCorrect w s = { s with c := w }) ∧
    (s.model.ver = 1#1 → s.cfg.wf = true → ModelInRange s.model →
      (((uCorrect w s).c.c0.toNat : Int) = max (-8192) (min 8191 ((s.model.k.toInt * (s.cfg.a1Const * ((w.c0.toNat : Int) - 8192)
        + s.model.a2.toInt * ((w.c1.toNat : Int) - 8192) + s.model.a3.toInt * ((w.c2.toNat : Int) - 8192))).tdiv 8192)) + 8192) ∧
      (((uCorrect w s).c.c1.toNat : Int) = max (-8192) (min 8191 ((s.model.k.toInt * (s.model.a4.toInt * ((w.c0.toNat : Int) - 8192)
        + s.model.a5.toInt * ((w.c1.toNat : Int) - 8192) + s.model.a6.toInt * ((w.c2.toNat : Int) - 8192))).tdiv 8192)) + 8192) ∧
      (((uCorrect w s).c.c2.toNat : Int) = max (-8192) (min 8191 ((s.model.k.toInt * (s.model.a7.toInt * ((w.c0.toNat : Int) - 8192)
        + s.model.a8.toInt * ((w.c1.toNat : Int) - 8192) + s.model.a9.toInt * ((w.c2.toNat : Int) - 8192))).tdiv 8192)) + 8192) ∧
      (uCorrect w s).acc.toInt = s.model.k.toInt * (s.model.a7.toInt * ((w.c0.toNat : Int) - 8192)
        + s.model.a8.toInt * ((w.c1.toNat : Int) - 8192) + s.model.a9.toInt * ((w.c2.toNat : Int) - 8192)) ∧
      uCorrect w s = { s with c := (uCorrect w s).c, acc := (uCorrect w s).acc })

/-- R111, R115: the linear part is the difference itself under VER 0; under VER 1, on a difference of two samples, it is exact:
no accumulator leaves 32 bits. It leaves every register as it was but ACC (what it leaves there: log 15). -/
def Obligations.LinearPartExact : Prop :=
  ∀ (s : State) (d : Tri Int),
    uLinearAcc d s = { s with acc := (uLinearAcc d s).acc } ∧
    (s.model.ver = 0#1 → linearPart s d = d) ∧
    (s.model.ver = 1#1 → s.cfg.wf = true → ModelInRange s.model →
      (-16383 ≤ d.c0 ∧ d.c0 ≤ 16383) → (-16383 ≤ d.c1 ∧ d.c1 ≤ 16383) → (-16383 ≤ d.c2 ∧ d.c2 ≤ 16383) →
      linearPart s d =
      ⟨(s.model.k.toInt * (s.cfg.a1Const * d.c0 + s.model.a2.toInt * d.c1 + s.model.a3.toInt * d.c2)).tdiv 8192,
       (s.model.k.toInt * (s.model.a4.toInt * d.c0 + s.model.a5.toInt * d.c1 + s.model.a6.toInt * d.c2)).tdiv 8192,
       (s.model.k.toInt * (s.model.a7.toInt * d.c0 + s.model.a8.toInt * d.c1 + s.model.a9.toInt * d.c2)).tdiv 8192⟩)

/-- R70, R121: the mask's bits, the two "any" tests, and that no axis has both; U_OVF stores the mask of the corrected words in
OVF and writes nothing else. -/
def Obligations.OverflowMaskBits : Prop :=
  (∀ (c : Tri (BitVec 14)),
    (∀ i : Fin 3, (overflowMask c).getLsbD (2 * i.val) = decide (16383 ≤ (c.get i).toNat) ∧
      (overflowMask c).getLsbD (2 * i.val + 1) = decide ((c.get i).toNat = 0) ∧
      ¬ ((overflowMask c).getLsbD (2 * i.val) = true ∧ (overflowMask c).getLsbD (2 * i.val + 1) = true)) ∧
    (anyOverflow (overflowMask c) = true ↔ ∃ i : Fin 3, 16383 ≤ (c.get i).toNat) ∧
    (anyUnderflow (overflowMask c) = true ↔ ∃ i : Fin 3, (c.get i).toNat = 0)) ∧
  (∀ s : State, uOvf s = { s with ovf := overflowMask s.c })

/-- R122: the physical values, exact in 32 bits, with their ranges and the product's; U_CONV writes P only. -/
def Obligations.PhysicalConversionExact : Prop :=
  ∀ s : State,
    (uConv s).p.c0.toInt = ((s.c.c0.toNat : Int) - 8192) * 300 ∧
    (uConv s).p.c1.toInt = (((s.c.c1.toNat : Int) - (s.c.c2.toNat : Int)) * 1732).tdiv 10 ∧
    (uConv s).p.c2.toInt = (16384 - (s.c.c1.toNat : Int) - (s.c.c2.toNat : Int)) * 300 ∧
    (-2457600 ≤ (uConv s).p.c0.toInt ∧ (uConv s).p.c0.toInt ≤ 2457300) ∧
    (-2837535 ≤ (uConv s).p.c1.toInt ∧ (uConv s).p.c1.toInt ≤ 2837535) ∧
    (-4914600 ≤ (uConv s).p.c2.toInt ∧ (uConv s).p.c2.toInt ≤ 4915200) ∧
    (300 ∣ (uConv s).p.c0.toInt ∧ 300 ∣ (uConv s).p.c2.toInt) ∧
    (-28375356 ≤ ((s.c.c1.toNat : Int) - (s.c.c2.toNat : Int)) * 1732 ∧
      ((s.c.c1.toNat : Int) - (s.c.c2.toNat : Int)) * 1732 ≤ 28375356) ∧
    uConv s = { s with p := (uConv s).p }

/-- R124, R127: with any table of signed permutations, the oriented values are the exact matrix product and no larger than
the widest physical value; position 2 passes P through; U_ORIENT writes V only. -/
def Obligations.OrientationIsSignedPermutation : Prop :=
  ∀ s : State, s.cfg.wf = true → (∀ i : Fin 3, (s.p.get i).toInt.natAbs ≤ 4915200) →
    (s.position = 2#3 → (uOrient s).v = s.p) ∧
    (∀ i : Fin 3, ((uOrient s).v.get i).toInt =
      ((s.cfg.orient.get s.position.toFin).get i).c0 * s.p.c0.toInt + ((s.cfg.orient.get s.position.toFin).get i).c1 * s.p.c1.toInt
        + ((s.cfg.orient.get s.position.toFin).get i).c2 * s.p.c2.toInt) ∧
    (∀ i : Fin 3, ∃ j : Fin 3, ((uOrient s).v.get i).toInt = (s.p.get j).toInt ∨ ((uOrient s).v.get i).toInt = -(s.p.get j).toInt) ∧
    uOrient s = { s with v := (uOrient s).v }

/-- R127: the default table, "V in terms of P", position by position. -/
def Obligations.DefaultOrientationTable : Prop :=
  ∀ s : State, s.cfg.orient = defaultOrient → (∀ i : Fin 3, (s.p.get i).toInt.natAbs ≤ 4915200) →
    (s.position = 0#3 → (uOrient s).v.map BitVec.toInt = ⟨-s.p.c0.toInt, -s.p.c1.toInt, s.p.c2.toInt⟩) ∧
    (s.position = 1#3 → (uOrient s).v.map BitVec.toInt = ⟨-s.p.c1.toInt, s.p.c0.toInt, s.p.c2.toInt⟩) ∧
    (s.position = 2#3 → (uOrient s).v.map BitVec.toInt = ⟨s.p.c0.toInt, s.p.c1.toInt, s.p.c2.toInt⟩) ∧
    (s.position = 3#3 → (uOrient s).v.map BitVec.toInt = ⟨s.p.c1.toInt, -s.p.c0.toInt, s.p.c2.toInt⟩) ∧
    (s.position = 4#3 → (uOrient s).v.map BitVec.toInt = ⟨s.p.c0.toInt, -s.p.c1.toInt, -s.p.c2.toInt⟩) ∧
    (s.position = 5#3 → (uOrient s).v.map BitVec.toInt = ⟨s.p.c1.toInt, s.p.c0.toInt, -s.p.c2.toInt⟩) ∧
    (s.position = 6#3 → (uOrient s).v.map BitVec.toInt = ⟨-s.p.c0.toInt, s.p.c1.toInt, -s.p.c2.toInt⟩) ∧
    (s.position = 7#3 → (uOrient s).v.map BitVec.toInt = ⟨-s.p.c1.toInt, -s.p.c0.toInt, -s.p.c2.toInt⟩)

/-- R128 to R130: the status digit of slot `i` is recovered from the quantised value by the Euclidean remainder, and what is
left is the value truncated towards zero to a multiple of ten. -/
def Obligations.QuantisedDigitRecovered : Prop :=
  ∀ s : State, s.ovf = overflowMask s.c → (∀ i : Fin 3, (s.v.get i).toInt.natAbs ≤ 4915200) →
    (∀ i : Fin 3,
      digitOf ((uQuant s).q.get i) = (if 16383 ≤ (s.c.get i).toNat then 1 else if (s.c.get i).toNat = 0 then 2 else 0) ∧
      ((uQuant s).q.get i).toInt - digitOf ((uQuant s).q.get i) = (s.v.get i).toInt - (s.v.get i).toInt.tmod 10) ∧
    uQuant s = { s with q := (uQuant s).q }

/-- R130, R131, R143: every sample a MEASURE returns carries digits 0 to 3, and a digit 3 stands on all three values of a
sample without overflow or underflow. -/
def Obligations.MeasuredDigitsAreLegal : Prop :=
  ∀ (s t : State) (r : Response), SessionInv s → exec .measure s = .next t → t.response = some r → r.count = 1 →
    r = ⟨0, 1, t.q.c0, t.q.c1, t.q.c2, 0⟩ ∧
    (∀ i : Fin 3, digitOf (t.q.get i) = 0 ∨ digitOf (t.q.get i) = 1 ∨ digitOf (t.q.get i) = 2 ∨ digitOf (t.q.get i) = 3) ∧
    ((∃ i : Fin 3, digitOf (t.q.get i) = 3) → t.ovf = 0#6 ∧ ∀ i : Fin 3, digitOf (t.q.get i) = 3)

/-! ### MEASURE and the measurement state machine -/

/-- R197 (a), R237: on a disabled session MEASURE answers no data and advances the logical clock only. -/
def Obligations.MeasureDisabledAnswersNoData : Prop :=
  ∀ s : State, s.initialized = true → s.enable = false →
    exec .measure s = .next { s with
      lclk := if s.cfg.hasClock then s.lclk else s.lclk + s.delay
      response := some okEmpty }

/-- R137, R140 to R143 in state Normal: without an anomaly INVALID is cleared; with drift alone, a word more than 1500 from its
baseline, the machine enters InitCoil and 3 is added to every value; with an overflow or underflow it enters InitCoil and
nothing is added. ONSET is written on the rising edge only. The sample is returned with count 1 in every case. MSTATE is
written by its codes of R16: 0 Normal, 1 InitCoil, 2 RecordData. -/
def Obligations.MeasureInNormal : Prop :=
  ∀ s : State, SampleReady s → s.mstate = 0#2 →
    ((∀ i : Fin 3, ((((measured s).c.get i).toNat : Int) - ((s.base.get i).toNat : Int)).natAbs ≤ 1500) →
      (measured s).ovf = 0#6 →
      exec .measure s = .next { measured s with
        invalid := false
        response := some ⟨0, 1, (measured s).q.c0, (measured s).q.c1, (measured s).q.c2, 0⟩ }) ∧
    ((∃ i : Fin 3, 1500 < ((((measured s).c.get i).toNat : Int) - ((s.base.get i).toNat : Int)).natAbs) →
      (measured s).ovf = 0#6 →
      exec .measure s = .next { measured s with
        onset := if s.invalid then s.onset else measureTime s
        invalid := true
        mstate := 1#2
        q := ⟨BitVec.ofInt 32 ((measured s).q.c0.toInt + 3), BitVec.ofInt 32 ((measured s).q.c1.toInt + 3),
          BitVec.ofInt 32 ((measured s).q.c2.toInt + 3)⟩
        response := some ⟨0, 1, BitVec.ofInt 32 ((measured s).q.c0.toInt + 3), BitVec.ofInt 32 ((measured s).q.c1.toInt + 3),
          BitVec.ofInt 32 ((measured s).q.c2.toInt + 3), 0⟩ }) ∧
    ((measured s).ovf ≠ 0#6 →
      exec .measure s = .next { measured s with
        onset := if s.invalid then s.onset else measureTime s
        invalid := true
        mstate := 1#2
        response := some ⟨0, 1, (measured s).q.c0, (measured s).q.c1, (measured s).q.c2, 0⟩ })

/-- R136, R138, R146 (c), R147, R238 in state InitCoil: nothing happens before the timeout; at or after it the coil register is
written and the machine goes to RecordData with ONSET at the present time; a failed coil write leaves the state machine.
The elapsed time is the difference of the two 32-bit times, modulo 2^32. -/
def Obligations.MeasureInInitCoil : Prop :=
  ∀ s : State, SampleReady s → s.mstate = 1#2 →
    ((measureTime s - s.onset).toNat < s.cfg.initCoilTimeoutMs →
      exec .measure s = .next { measured s with
        response := some ⟨0, 1, (measured s).q.c0, (measured s).q.c1, (measured s).q.c2, 0⟩ }) ∧
    (s.cfg.initCoilTimeoutMs ≤ (measureTime s - s.onset).toNat → busOkAt s 1 = true →
      exec .measure s = .next { advance (measured s) 1 [.wrote s.cfg.dev.regConf s.cfg.dev.valConfRcoil true] with
        onset := measureTime s
        mstate := 2#2
        response := some ⟨0, 1, (measured s).q.c0, (measured s).q.c1, (measured s).q.c2, 0⟩ }) ∧
    (s.cfg.initCoilTimeoutMs ≤ (measureTime s - s.onset).toNat → busOkAt s 1 = false →
      exec .measure s = .next { advance (measured s) 1 [.wrote s.cfg.dev.regConf s.cfg.dev.valConfRcoil false] with
        response := some (errorResponse .deviceCommunication) })

/-- R139, R145 in state RecordData: a bad sample changes nothing; a good one becomes the baseline and is judged in Normal at
once, where it can only be anomalous by overflow or underflow. -/
def Obligations.MeasureInRecordData : Prop :=
  ∀ s : State, SampleReady s → s.mstate = 2#2 →
    ((measured s).raw.bad = true →
      exec .measure s = .next { measured s with
        response := some ⟨0, 1, (measured s).q.c0, (measured s).q.c1, (measured s).q.c2, 0⟩ }) ∧
    ((measured s).raw.bad = false → (measured s).ovf = 0#6 →
      exec .measure s = .next { measured s with
        base := (measured s).c
        mstate := 0#2
        invalid := false
        response := some ⟨0, 1, (measured s).q.c0, (measured s).q.c1, (measured s).q.c2, 0⟩ }) ∧
    ((measured s).raw.bad = false → (measured s).ovf ≠ 0#6 →
      exec .measure s = .next { measured s with
        base := (measured s).c
        mstate := 1#2
        onset := if s.invalid then s.onset else measureTime s
        invalid := true
        response := some ⟨0, 1, (measured s).q.c0, (measured s).q.c1, (measured s).q.c2, 0⟩ })

/-- R144, R196, R227, R235: a busy sample is cached and answered Busy without a clock read or a step of the machine; a failed
data read changes nothing but the logical clock. That a busy sample has its P, V and Q computed is the model's reading: R197 (b)
lets a model skip it, and the spec gives these registers no value at a command boundary (log 15). -/
def Obligations.MeasureBusyOrReadFails : Prop :=
  ∀ s : State, s.initialized = true → s.enable = true → s.busOpen = true →
    (busOkAt s 0 = true → (parseSample (sampleAt s 0)).busy = true →
      exec .measure s = .next { advance (quantised (sampled (sampleAt s 0) (tickClock s))) 1
        [.read s.cfg.dev.regData 8 (some (List.ofFn (sampleAt s 0)))] with response := some (errorResponse .busy) }) ∧
    (busOkAt s 0 = false →
      exec .measure s = .next { advance (tickClock s) 1 [.read s.cfg.dev.regData 8 none] with
        response := some (errorResponse .deviceCommunication) })

/-- R237: without a clock LCLK advances by DELAY modulo 2^32 on every P_MEASURE of an initialised session: every MEASURE,
whatever its outcome, and the one inside EXT_NOISE_TEST, which a disabled session reaches when its enable succeeds and not
when it fails. With a clock LCLK is written by INIT only; nothing else touches it. -/
def Obligations.LogicalClockAdvances : Prop :=
  ∀ (i : Instr) (s t : State), exec i s = .next t →
    (i = .measure → s.initialized = true → s.cfg.hasClock = false → t.lclk = s.lclk + s.delay) ∧
    (i = .extNoiseTest → s.initialized = true → s.cfg.hasClock = false → s.enable = true → t.lclk = s.lclk + s.delay) ∧
    (i = .extNoiseTest → s.initialized = true → s.cfg.hasClock = false → s.enable = false →
      (∀ u : State, pEnable s = .ok () u → t.lclk = s.lclk + s.delay) ∧
      (∀ (e : ErrKind) (u : State), pEnable s = .err e u → t.lclk = s.lclk)) ∧
    (i ≠ .init → s.initialized = false → t.lclk = s.lclk) ∧
    (i ≠ .init → s.cfg.hasClock = true → t.lclk = s.lclk) ∧
    (i ≠ .init → i ≠ .measure → i ≠ .extNoiseTest → t.lclk = s.lclk) ∧
    (i = .init → t.initialized = true → s.initialized = false → t.lclk = 0)

/-! ### Lifecycle commands -/

/-- R182, R251: a successful INIT: the bus trace, every register it writes, and that it writes no other. -/
def Obligations.InitCompletes : Prop :=
  ∀ s : State, s.initialized = false → s.busOpen = false → AnswersOk s 3 → busByteAt s 1 0 = s.cfg.chipId →
    exec .init s = .next { s with
      initialized := true, enable := false, busOpen := false
      delay := s.cfg.delayDefault, avg := s.cfg.avgDefault, position := s.cfg.posDefault
      mstate := mNormal, invalid := false, onset := 0, lclk := 0
      hwoff := ⟨0, 0, 0⟩, lastRaw := ⟨0, 0, 0⟩, lastRawT := 0, base := s.cfg.baseReset
      response := some okEmpty
      busScript := s.busScript.drop 3, busDraws := s.busDraws + 3
      trace := s.trace ++ [.opened true, .read s.cfg.dev.regId 1 (some [s.cfg.chipId]), .closed true] }

/-- R182, R224, R225, R235: how INIT fails, and that a failed INIT writes no session register and leaves the bus closed. -/
def Obligations.InitFailuresChangeNoRegister : Prop :=
  ∀ s : State, s.initialized = false → s.busOpen = false →
    (busOkAt s 0 = false → exec .init s = .next { advance s 1 [.opened false] with
      response := some (errorResponse .deviceCommunication) }) ∧
    (busOkAt s 0 = true → busOkAt s 1 = false →
      exec .init s = .next { advance s 3 [.opened true, .read s.cfg.dev.regId 1 none, .closed (busOkAt s 2)] with
        response := some (errorResponse .deviceCommunication) }) ∧
    (busOkAt s 0 = true → busOkAt s 1 = true → busOkAt s 2 = false →
      exec .init s = .next { advance s 3 [.opened true, .read s.cfg.dev.regId 1 (some [busByteAt s 1 0]), .closed false] with
        response := some (errorResponse .deviceCommunication) }) ∧
    (AnswersOk s 3 → busByteAt s 1 0 ≠ s.cfg.chipId →
      exec .init s = .next { advance s 3 [.opened true, .read s.cfg.dev.regId 1 (some [busByteAt s 1 0]), .closed true] with
        response := some (errorResponse .chipIdMismatch) })

/-- R221, R222: every command but INIT answers NotInitialized, code 1, on an uninitialised session, whatever its argument;
an EXT word with an unknown number does so too; INIT answers AlreadyInitialized, code 2, on an initialised one; none changes
any state or records anything. -/
def Obligations.LifecycleGuard : Prop :=
  ∀ (i : Instr) (s : State),
    (i ≠ .init → s.initialized = false → exec i s = .next { s with response := some ⟨1, 0, 0, 0, 0, 0⟩ }) ∧
    (s.initialized = false → rejectExt s = .next { s with response := some ⟨1, 0, 0, 0, 0, 0⟩ }) ∧
    (i = .init → s.initialized = true → exec i s = .next { s with response := some ⟨2, 0, 0, 0, 0, 0⟩ })

/-- R183: TERM on a disabled session only ends it; on an enabled one it disables first, and ends the session even when a
transaction of the disable fails, which it reports. -/
def Obligations.TermEndsSession : Prop :=
  ∀ s : State, s.initialized = true →
    (s.enable = false → exec .term s = .next { s with initialized := false, response := some okEmpty }) ∧
    (s.enable = true → s.busOpen = true → AnswersOk s 2 →
      exec .term s = .next { advance s 2 (disableEvents s) with
        initialized := false, enable := false, busOpen := false, response := some okEmpty }) ∧
    (s.enable = true → s.busOpen = true → (busOkAt s 0 && busOkAt s 1) = false →
      exec .term s = .next { advance s 2 [.wrote s.cfg.dev.regSrst s.cfg.dev.valSrst (busOkAt s 0), .closed (busOkAt s 1)] with
        initialized := false, enable := false, busOpen := false, response := some (errorResponse .deviceCommunication) })

/-- R184: setting the value ENABLE already has answers OK, with no bus traffic and no state change. -/
def Obligations.SetEnableHeldValue : Prop :=
  ∀ (arg : Word) (s : State), s.initialized = true → (s.enable = true ↔ arg ≠ 0) →
    exec (.setEnable arg) s = .next { s with response := some okEmpty }

/-- R184, R185, R100, R91, R94, R96: enabling with a valid block of either version when every transaction succeeds: the
interactions in order and every register written; what the block commits, by its version. Under version 0 the coefficients
committed are free values, numbered by the model's own counter (log 9). -/
def Obligations.EnableCompletes : Prop :=
  ∀ (arg : Word) (s : State) (ws : List (Byte × Byte)) (f : State → State),
    s.initialized = true → s.enable = false → s.busOpen = false → arg ≠ 0 →
    Accepts s (blockAt s 2) ws f → AnswersOk s (ws.length + 6) →
    exec (.setEnable arg) s = .next { advance (f s) (ws.length + 6) (enableEvents s (blockAt s 2) ws) with
      enable := true, busOpen := true
      mstate := mNormal, invalid := false, onset := 0, base := s.cfg.baseReset
      response := some okEmpty } ∧
    f s = { s with
      model := (f s).model
      hwoff := ⟨blockAt s 2 12, blockAt s 2 13, blockAt s 2 14⟩
      freeDraws := (f s).freeDraws } ∧
    ((blockAt s 2 16).toNat < 64 → (f s).model.ver = 0#1 ∧ ws = v0Writes s.cfg.dev (blockAt s 2)) ∧
    (64 ≤ (blockAt s 2 16).toNat →
      (f s).model = decodeModel s.cfg.calLayout (blockAt s 2) ∧ ws = v1Writes s.cfg.dev (blockAt s 2))

/-- R185, R91, R93, R97, R226: enabling with an invalid block answers CalibrationInvalid, closes the bus best effort, and
leaves every register as it was. -/
def Obligations.EnableRejectsInvalidBlock : Prop :=
  ∀ (arg : Word) (s : State), s.initialized = true → s.enable = false → s.busOpen = false → arg ≠ 0 → AnswersOk s 3 →
    (calNonzero (blockAt s 2) = false ∨ 128 ≤ (blockAt s 2 16).toNat) →
    exec (.setEnable arg) s = .next { advance s 4 [.opened true, .wrote s.cfg.dev.regSrst s.cfg.dev.valSrst true,
      .slept s.cfg.tResetUs, .read s.cfg.dev.regCal 17 (some (List.ofFn (blockAt s 2))), .closed (busOkAt s 3)] with
      response := some (errorResponse .calibrationInvalid) }

/-- R185, R235, R252: an enable that answers OK leaves the session enabled with the measurement state reset; one that answers
an error leaves it disabled with the bus closed. -/
def Obligations.EnableOutcome : Prop :=
  ∀ (arg : Word) (s t : State) (r : Response), SessionInv s → s.initialized = true → s.enable = false → arg ≠ 0 →
    exec (.setEnable arg) s = .next t → t.response = some r →
    (r.status = 0 → t.enable = true ∧ t.busOpen = true ∧ t.mstate = mNormal ∧ t.invalid = false ∧ t.onset = 0 ∧
      t.base = s.cfg.baseReset) ∧
    (r.status ≠ 0 → t.enable = false ∧ t.busOpen = false ∧ (r.status = 4 ∨ r.status = 6))

/-- R184, R186: disabling: the reset write and the close, both attempted; ENABLE and BUSOPEN 0 in every case; the failure of
either reported. -/
def Obligations.DisableCompletes : Prop :=
  ∀ s : State, s.initialized = true → s.enable = true → s.busOpen = true →
    (AnswersOk s 2 → exec (.setEnable 0) s = .next { advance s 2 (disableEvents s) with
      enable := false, busOpen := false, response := some okEmpty }) ∧
    ((busOkAt s 0 && busOkAt s 1) = false →
      exec (.setEnable 0) s = .next { advance s 2 [.wrote s.cfg.dev.regSrst s.cfg.dev.valSrst (busOkAt s 0), .closed (busOkAt s 1)] with
        enable := false, busOpen := false, response := some (errorResponse .deviceCommunication) })

/-- R188, R190, R192, R194: each GET has its opcode, returns its register, reads only, and errs with NotInitialized. -/
def Obligations.GettersAnswer : Prop :=
  ∀ (arg : Word) (s : State),
    (decode (0x04#8 ++ arg) = .command .getEnable ∧ decode (0x06#8 ++ arg) = .command .getDelay ∧
      decode (0x08#8 ++ arg) = .command .getPosition ∧ decode (0x0A#8 ++ arg) = .command .getAveraging) ∧
    (s.initialized = true →
      exec .getEnable s = .next { s with response := some ⟨0, 0, if s.enable then 1 else 0, 0, 0, 0⟩ } ∧
      exec .getDelay s = .next { s with response := some ⟨0, 0, s.delay, 0, 0, 0⟩ } ∧
      exec .getPosition s = .next { s with response := some ⟨0, 0, BitVec.ofNat 32 s.position.toNat, 0, 0, 0⟩ } ∧
      exec .getAveraging s = .next { s with response := some ⟨0, 0, BitVec.ofNat 32 s.avg.toNat, 0, 0, 0⟩ }) ∧
    (s.initialized = false →
      exec .getEnable s = .next { s with response := some (errorResponse .notInitialized) } ∧
      exec .getDelay s = .next { s with response := some (errorResponse .notInitialized) } ∧
      exec .getPosition s = .next { s with response := some (errorResponse .notInitialized) } ∧
      exec .getAveraging s = .next { s with response := some (errorResponse .notInitialized) })

/-! ### Settings and read-backs -/

/-- R191: SET_POSITION stores a position 0 to 7 and nothing else, rejects any other value of the 32-bit argument, and never
uses the bus. -/
def Obligations.SetPositionStores : Prop :=
  ∀ (arg : Word) (s : State), s.initialized = true →
    (arg.toNat ≤ 7 → exec (.setPosition arg) s =
      .next { s with position := BitVec.ofNat 3 arg.toNat, response := some okEmpty }) ∧
    (7 < arg.toNat → exec (.setPosition arg) s = .next { s with response := some (errorResponse .invalidArgument) })

/-- R189, R193, R223: on a disabled session SET_DELAY stores a non-negative delay, SET_AVERAGING a level 0 to 3, and nothing
else changes; in every mode another value is rejected with no state change and no bus traffic. -/
def Obligations.SettingsStoreOrReject : Prop :=
  ∀ (arg : Word) (s : State), s.initialized = true →
    (arg.toNat < 2 ^ 31 → s.enable = false →
      exec (.setDelay arg) s = .next { s with delay := arg, response := some okEmpty }) ∧
    (2 ^ 31 ≤ arg.toNat → exec (.setDelay arg) s = .next { s with response := some (errorResponse .invalidArgument) }) ∧
    (arg.toNat ≤ 3 → s.enable = false →
      exec (.setAveraging arg) s = .next { s with avg := BitVec.ofNat 2 arg.toNat, response := some okEmpty }) ∧
    (3 < arg.toNat → exec (.setAveraging arg) s = .next { s with response := some (errorResponse .invalidArgument) })

/-- R189, R193, R195, R256: on an enabled session a changed delay or averaging level is applied by a disable and an enable,
which reloads the model and resets the measurement state; the enable uses the new value. -/
def Obligations.SettingReappliesOnEnabledSession : Prop :=
  ∀ (arg : Word) (s : State) (ws : List (Byte × Byte)) (f : State → State),
    s.initialized = true → s.enable = true → s.busOpen = true →
    Accepts s (blockAt s 4) ws f → AnswersOk s (ws.length + 8) →
    (arg.toNat < 2 ^ 31 → exec (.setDelay arg) s =
      .next { advance (f s) (ws.length + 8) (disableEvents s ++ enableEvents { s with delay := arg } (blockAt s 4) ws) with
        delay := arg
        mstate := mNormal, invalid := false, onset := 0, base := s.cfg.baseReset
        response := some okEmpty }) ∧
    (arg.toNat ≤ 3 → exec (.setAveraging arg) s =
      .next { advance (f s) (ws.length + 8)
          (disableEvents s ++ enableEvents { s with avg := BitVec.ofNat 2 arg.toNat } (blockAt s 4) ws) with
        avg := BitVec.ofNat 2 arg.toNat
        mstate := mNormal, invalid := false, onset := 0, base := s.cfg.baseReset
        response := some okEmpty })

/-- R195, R235, R241: SET_DELAY and SET_AVERAGING on an enabled session keep the new setting even when the toggle fails; then,
and only then, the session is left disabled with the bus closed. -/
def Obligations.FailedReapplyDisables : Prop :=
  ∀ (arg : Word) (s t : State) (r : Response), SessionInv s → s.initialized = true → s.enable = true →
    t.response = some r →
    (exec (.setDelay arg) s = .next t → arg.toNat < 2 ^ 31 →
      t.delay = arg ∧ (r.status = 0 → t.enable = true) ∧ (r.status ≠ 0 → t.enable = false ∧ t.busOpen = false)) ∧
    (exec (.setAveraging arg) s = .next t → arg.toNat ≤ 3 →
      t.avg = BitVec.ofNat 2 arg.toNat ∧ (r.status = 0 → t.enable = true) ∧
        (r.status ≠ 0 → t.enable = false ∧ t.busOpen = false))

/-- R199, R200: the two read-backs return LAST_RAW zero-extended and HWOFF sign-extended, and read only. -/
def Obligations.ReadbacksAnswer : Prop :=
  ∀ s : State, s.initialized = true →
    exec .extGetRaw s = .next { s with response := some ⟨0, 0, BitVec.ofNat 32 s.lastRaw.c0.toNat,
      BitVec.ofNat 32 s.lastRaw.c1.toNat, BitVec.ofNat 32 s.lastRaw.c2.toNat, BitVec.ofNat 32 s.lastRawT.toNat⟩ } ∧
    exec .extGetHwOffset s = .next { s with response := some ⟨0, 0, BitVec.ofInt 32 s.hwoff.c0.toInt,
      BitVec.ofInt 32 s.hwoff.c1.toInt, BitVec.ofInt 32 s.hwoff.c2.toInt, 0⟩ }

/-! ### The self-test controller -/

/-- R156, R157, R160, R260 on an enabled session: reload, one plain shot, no overflow and no underflow, a direction that is not
the zero vector. Continuous mode is restarted; whether that write succeeds or fails, the result and ENABLE = 1 stand. -/
def Obligations.SelfTestCompletesEnabled : Prop :=
  ∀ (s u : State) (ws : List (Byte × Byte)) (f : State → State) (D : Fin 8 → Byte),
    s.initialized = true → s.enable = true → s.busOpen = true →
    Accepts s (blockAt s 1) ws f → AnswersOk s (ws.length + 6) →
    D = sampleAt s (ws.length + 5) → (parseSample D).busy = false →
    u = uConv (sampled D (resetMeasurement (f s))) → u.ovf = 0#6 → (∃ i : Fin 3, 1000 ≤ (u.p.get i).toInt.natAbs) →
    exec .extSelfTest s = .next { advance u (ws.length + 7)
        (resetDecodeEvents s (blockAt s 1) ws ++ singleShotEvents s false false D ++
          restartEvents s (busOkAt s (ws.length + 6))) with
      response := some ⟨0, 0, BitVec.ofInt 32 (u.p.c0.toInt.tdiv 1000), BitVec.ofInt 32 (u.p.c1.toInt.tdiv 1000),
        BitVec.ofInt 32 (u.p.c2.toInt.tdiv 1000), 0⟩ }

/-- The same on a disabled session: the bus is opened for the test, and reset and closed after it, whatever the environment
answers to the two; BUSOPEN is 0 and ENABLE stays 0. -/
def Obligations.SelfTestCompletesDisabled : Prop :=
  ∀ (s u : State) (ws : List (Byte × Byte)) (f : State → State) (D : Fin 8 → Byte),
    s.initialized = true → s.enable = false → s.busOpen = false →
    Accepts s (blockAt s 2) ws f → AnswersOk s (ws.length + 7) →
    D = sampleAt s (ws.length + 6) → (parseSample D).busy = false →
    u = uConv (sampled D (resetMeasurement (f s))) → u.ovf = 0#6 → (∃ i : Fin 3, 1000 ≤ (u.p.get i).toInt.natAbs) →
    exec .extSelfTest s = .next { advance u (ws.length + 9)
        ([.opened true] ++ resetDecodeEvents s (blockAt s 2) ws ++ singleShotEvents s false false D ++
          releaseEvents s (busOkAt s (ws.length + 7)) (busOkAt s (ws.length + 8))) with
      response := some ⟨0, 0, BitVec.ofInt 32 (u.p.c0.toInt.tdiv 1000), BitVec.ofInt 32 (u.p.c1.toInt.tdiv 1000),
        BitVec.ofInt 32 (u.p.c2.toInt.tdiv 1000), 0⟩ }

/-- R156, R157, R160, R161, R228 to R230, R234, R260, enabled or not: which error a shot that was taken gives: Busy before
overflow before underflow before the zero vector. `k` is the place of the block read. The registers written are those of a
completed test, but P is converted only for the zero test. The cleanup runs as after a success, whatever the environment
answers to it, and leaves ENABLE and BUSOPEN as they were. -/
def Obligations.SelfTestErrorsInOrder : Prop :=
  ∀ (s u : State) (k : Nat) (ws : List (Byte × Byte)) (f : State → State) (D : Fin 8 → Byte) (evs : List Event),
    s.initialized = true → s.busOpen = s.enable → k = (if s.enable then 1 else 2) →
    Accepts s (blockAt s k) ws f → AnswersOk s (k + ws.length + 5) →
    D = sampleAt s (k + ws.length + 4) → u = sampled D (resetMeasurement (f s)) →
    evs = openEvents s ++ resetDecodeEvents s (blockAt s k) ws ++ singleShotEvents s false false D ++
      restoreEvents s (k + ws.length + 5) →
    ((parseSample D).busy = true →
      exec .extSelfTest s = .next { advance u (k + ws.length + 5 + restoreCount s) evs with
        response := some (errorResponse .busy) }) ∧
    ((parseSample D).busy = false → anyOverflow u.ovf = true →
      exec .extSelfTest s = .next { advance u (k + ws.length + 5 + restoreCount s) evs with
        response := some (errorResponse .overflowDetected) }) ∧
    ((parseSample D).busy = false → anyOverflow u.ovf = false → anyUnderflow u.ovf = true →
      exec .extSelfTest s = .next { advance u (k + ws.length + 5 + restoreCount s) evs with
        response := some (errorResponse .underflowDetected) }) ∧
    ((parseSample D).busy = false → u.ovf = 0#6 → (∀ i : Fin 3, ((uConv u).p.get i).toInt.natAbs < 1000) →
      exec .extSelfTest s = .next { advance (uConv u) (k + ws.length + 5 + restoreCount s) evs with
        response := some (errorResponse .directionCalcFailed) })

/-- R156, R157, R162 to R164, R260 on an enabled session: two shots under opposite polarity; `sx` and `sy` from the difference
of the uncorrected words; or, with an overflow or underflow in either shot, its error. The measurement state is untouched.
Continuous mode is restarted, whatever the environment answers to it. What ACC is left with is the model's reading (log 15). -/
def Obligations.SensitivityCompletesEnabled : Prop :=
  ∀ (s u1 u2 : State) (d h : Tri Int) (evs : List Event),
    s.initialized = true → s.enable = true → s.busOpen = true → AnswersOk s 4 →
    (parseSample (sampleAt s 1)).busy = false → (parseSample (sampleAt s 3)).busy = false →
    u1 = sampled (sampleAt s 1) s → u2 = sampled (sampleAt s 3) u1 →
    d = ⟨(u1.lastRaw.c0.toNat : Int) - u2.lastRaw.c0.toNat, (u1.lastRaw.c1.toNat : Int) - u2.lastRaw.c1.toNat,
         (u1.lastRaw.c2.toNat : Int) - u2.lastRaw.c2.toNat⟩ → h = linearPart s d →
    evs = singleShotEvents s true false (sampleAt s 1) ++ singleShotEvents s true true (sampleAt s 3) ++
      restartEvents s (busOkAt s 4) →
    (u1.ovf = 0#6 → u2.ovf = 0#6 → exec .extSensitivity s = .next { advance (uLinearAcc d u2) 5 evs with
      response := some ⟨0, 0, BitVec.ofInt 32 ((h.c0 * 300).tdiv s.cfg.sensVcore),
        BitVec.ofInt 32 ((((h.c1 - h.c2) * 1732).tdiv 10).tdiv s.cfg.sensVcore), 0, 0⟩ }) ∧
    ((anyOverflow u1.ovf || anyOverflow u2.ovf) = true →
      exec .extSensitivity s = .next { advance (uLinearAcc d u2) 5 evs with
        response := some (errorResponse .overflowDetected) }) ∧
    ((anyOverflow u1.ovf || anyOverflow u2.ovf) = false → (anyUnderflow u1.ovf || anyUnderflow u2.ovf) = true →
      exec .extSensitivity s = .next { advance (uLinearAcc d u2) 5 evs with
        response := some (errorResponse .underflowDetected) })

/-- R157, R162 to R164 on a disabled session: the model is reloaded first, and the bus is reset and closed after the shots,
whatever the environment answers to the two; the factors, or the error of an overflow or underflow in either shot. What ACC is
left with is the model's reading (log 15). -/
def Obligations.SensitivityCompletesDisabled : Prop :=
  ∀ (s u1 u2 : State) (d h : Tri Int) (ws : List (Byte × Byte)) (f : State → State) (evs : List Event),
    s.initialized = true → s.enable = false → s.busOpen = false →
    Accepts s (blockAt s 2) ws f → AnswersOk s (ws.length + 9) →
    (parseSample (sampleAt s (ws.length + 6))).busy = false → (parseSample (sampleAt s (ws.length + 8))).busy = false →
    u1 = sampled (sampleAt s (ws.length + 6)) (resetMeasurement (f s)) → u2 = sampled (sampleAt s (ws.length + 8)) u1 →
    d = ⟨(u1.lastRaw.c0.toNat : Int) - u2.lastRaw.c0.toNat, (u1.lastRaw.c1.toNat : Int) - u2.lastRaw.c1.toNat,
         (u1.lastRaw.c2.toNat : Int) - u2.lastRaw.c2.toNat⟩ → h = linearPart (f s) d →
    evs = [.opened true] ++ resetDecodeEvents s (blockAt s 2) ws ++ singleShotEvents s true false (sampleAt s (ws.length + 6)) ++
      singleShotEvents s true true (sampleAt s (ws.length + 8)) ++
      releaseEvents s (busOkAt s (ws.length + 9)) (busOkAt s (ws.length + 10)) →
    (u1.ovf = 0#6 → u2.ovf = 0#6 → exec .extSensitivity s = .next { advance (uLinearAcc d u2) (ws.length + 11) evs with
      response := some ⟨0, 0, BitVec.ofInt 32 ((h.c0 * 300).tdiv s.cfg.sensVcore),
        BitVec.ofInt 32 ((((h.c1 - h.c2) * 1732).tdiv 10).tdiv s.cfg.sensVcore), 0, 0⟩ }) ∧
    ((anyOverflow u1.ovf || anyOverflow u2.ovf) = true →
      exec .extSensitivity s = .next { advance (uLinearAcc d u2) (ws.length + 11) evs with
        response := some (errorResponse .overflowDetected) }) ∧
    ((anyOverflow u1.ovf || anyOverflow u2.ovf) = false → (anyUnderflow u1.ovf || anyUnderflow u2.ovf) = true →
      exec .extSensitivity s = .next { advance (uLinearAcc d u2) (ws.length + 11) evs with
        response := some (errorResponse .underflowDetected) })

/-- R165, R264: on an enabled session the noise test is one more MEASURE: the same next state, with the deviations in place
of the sample when the MEASURE answers OK, and the same error when it does not. -/
def Obligations.NoiseTestMirrorsMeasure : Prop :=
  ∀ (s t : State) (r : Response), s.initialized = true → s.enable = true → exec .measure s = .next t → t.response = some r →
    (r.status = 0 → exec .extNoiseTest s = .next { t with
      response := some ⟨0, 0, BitVec.ofInt 32 ((t.lastRaw.c0.toNat : Int) - 8192),
        BitVec.ofInt 32 ((t.lastRaw.c1.toNat : Int) - 8192), BitVec.ofInt 32 ((t.lastRaw.c2.toNat : Int) - 8192), 0⟩ }) ∧
    (r.status ≠ 0 → exec .extNoiseTest s = .next t)

/-- R165 on a disabled session: a full enable, one MEASURE in state Normal, and a disable, whose failures are discarded. -/
def Obligations.NoiseTestCompletesDisabled : Prop :=
  ∀ (s e m : State) (ws : List (Byte × Byte)) (f : State → State),
    s.initialized = true → s.enable = false → s.busOpen = false →
    Accepts s (blockAt s 2) ws f → AnswersOk s (ws.length + 7) →
    e = advance (enabledWith f s) (ws.length + 6) (enableEvents s (blockAt s 2) ws) →
    (parseSample (sampleAt s (ws.length + 6))).busy = false → m = fsmNormal (measureTime e) (measured e) →
    exec .extNoiseTest s = .next { advance m 2 (releaseEvents s (busOkAt s (ws.length + 7)) (busOkAt s (ws.length + 8))) with
      enable := false, busOpen := false
      response := some ⟨0, 0, BitVec.ofInt 32 ((m.lastRaw.c0.toNat : Int) - 8192),
        BitVec.ofInt 32 ((m.lastRaw.c1.toNat : Int) - 8192), BitVec.ofInt 32 ((m.lastRaw.c2.toNat : Int) - 8192), 0⟩ }

/-- R157, R165, R239 to R241: every diagnostic leaves INITIALIZED, ENABLE and BUSOPEN as they were, whatever failed. -/
def Obligations.DiagnosticsRestoreEnable : Prop :=
  ∀ (i : Instr) (s t : State), (i = .extSelfTest ∨ i = .extSensitivity ∨ i = .extNoiseTest) → SessionInv s →
    exec i s = .next t → t.enable = s.enable ∧ t.busOpen = s.busOpen ∧ t.initialized = s.initialized

/-! ### Over all commands -/

/-- R62, R232: every command that ends delivers a response; one with an error status has count 0 and result words 0, and only
MEASURE delivers a sample. -/
def Obligations.ResponsesAreWellFormed : Prop :=
  ∀ (i : Instr) (s t : State), exec i s = .next t → ∃ r : Response, t.response = some r ∧ r.status.toNat ≤ 10 ∧
    (r.status ≠ 0 → r.count = 0 ∧ r.r0 = 0 ∧ r.r1 = 0 ∧ r.r2 = 0 ∧ r.r3 = 0) ∧
    (r.count = 0 ∨ (r.count = 1 ∧ i = .measure))

/-- R210: no command answers a status its row of the table does not allow. -/
def Obligations.StatusWithinTable : Prop :=
  ∀ (i : Instr) (s t : State) (r : Response), exec i s = .next t → t.response = some r →
    r.status ∈ statusesOf (mayRaise i)

/-- R211: which command issues bus traffic: exactly those the rule names, in the states it names; the others record no
interaction at all and consume no answer. -/
def Obligations.BusTrafficOnlyWhereStated : Prop :=
  ∀ (i : Instr) (s t : State), exec i s = .next t →
    (mayUseBus i s = true → s.busDraws < t.busDraws) ∧
    (mayUseBus i s = false → t.busDraws = s.busDraws ∧ t.busScript = s.busScript ∧ t.trace = s.trace ∧
      t.clockScript = s.clockScript ∧ t.clockDraws = s.clockDraws)

/-- R38, R101, R34: the frame of every command: a register whose cell carries no w is as it was, whatever the outcome; the
configuration and the words still at the port are never written. -/
def Obligations.AccessMatrixFrames : Prop :=
  ∀ (i : Instr) (s t : State), exec i s = .next t →
    (writesInitialized i = false → t.initialized = s.initialized) ∧
    (writesEnable i = false → t.enable = s.enable ∧ t.busOpen = s.busOpen) ∧
    (writesDelay i = false → t.delay = s.delay) ∧
    (writesAvg i = false → t.avg = s.avg) ∧
    (writesPosition i = false → t.position = s.position) ∧
    (writesFsm i s = false → t.mstate = s.mstate ∧ t.invalid = s.invalid ∧ t.onset = s.onset ∧ t.base = s.base) ∧
    (writesLclk i = false → t.lclk = s.lclk) ∧
    (writesModel i s = false → t.model = s.model ∧ t.freeDraws = s.freeDraws) ∧
    (writesHwoff i s = false → t.hwoff = s.hwoff) ∧
    (writesLastRaw i = false → t.lastRaw = s.lastRaw ∧ t.lastRawT = s.lastRawT) ∧
    t.cfg = s.cfg ∧ t.port = s.port
end

