-- ==== Sys2Proof/Laws/Arith.lean ====
section
/-! SUPPORT. Narrowing an exact result: a value inside the signed range of a register comes back unchanged (45_host_commands.md
R216), and the bounds of the truncating division the units use. -/

namespace Sys2Proof.Machine

/-- A value inside the signed range of `n` bits survives the narrowing. -/
theorem toInt_ofInt_exact {n : Nat} {v : Int} (hn : 0 < n) (h1 : -(2 : Int) ^ (n - 1) ≤ v) (h2 : v < (2 : Int) ^ (n - 1)) :
    (BitVec.ofInt n v).toInt = v := by
  rw [BitVec.toInt_ofInt]
  obtain ⟨m, rfl⟩ : ∃ m, n = m + 1 := ⟨n - 1, by omega⟩
  simp only [Nat.add_sub_cancel] at h1 h2
  have hp : ((2 ^ (m + 1) : Nat) : Int) = 2 * 2 ^ m := by rw [Nat.pow_succ]; push_cast; ring
  rw [Int.bmod_eq_of_le] <;> rw [hp] <;> omega

/-- A 32-bit register holds every value of its signed range. -/
theorem word32_toInt {v : Int} (h1 : -2147483648 ≤ v) (h2 : v ≤ 2147483647) : (word32 v).toInt = v :=
  toInt_ofInt_exact (by decide) (by omega) (by omega)

/-- The value of a non-negative number narrowed to `n` bits it fits. -/
theorem toNat_ofInt_exact {n : Nat} {v : Int} (h1 : 0 ≤ v) (h2 : v < (2 : Int) ^ n) : ((BitVec.ofInt n v).toNat : Int) = v := by
  rw [BitVec.toNat_ofInt]
  have h3 : v < ((2 ^ n : Nat) : Int) := by push_cast; exact h2
  rw [Int.toNat_of_nonneg (Int.emod_nonneg _ (by positivity)), Int.emod_eq_of_lt h1 h3]

/-- The clamp's range (00_scope.md R9). -/
theorem clampInt_bounds (v : Int) : -8192 ≤ clampInt (-8192) 8191 v ∧ clampInt (-8192) 8191 v ≤ 8191 := by
  unfold clampInt; split <;> [omega; split <;> omega]

/-- The clamp by the larger and the smaller (00_scope.md R9). -/
theorem clampInt_eq_max_min (v : Int) : clampInt (-8192) 8191 v = max (-8192) (min 8191 v) := by
  unfold clampInt; split <;> [omega; split <;> omega]

/-- A clamped quotient, re-offset, is a 14-bit word (41_correction_mac.md R114). -/
theorem clampWord_toNat (h : Int) : ((clampWord h).toNat : Int) = clampInt (-8192) 8191 h + 8192 := by
  have := clampInt_bounds h
  exact toNat_ofInt_exact (by omega) (by omega)

/-- A product of two bounded integers is bounded. -/
theorem mul_bounds {a b A B : Int} (ha : -A ≤ a ∧ a ≤ A) (hb : -B ≤ b ∧ b ≤ B) : -(A * B) ≤ a * b ∧ a * b ≤ A * B := by
  have h1 : |a| ≤ A := abs_le.mpr ha
  have h2 : |b| ≤ B := abs_le.mpr hb
  have h : |a * b| ≤ A * B := by
    rw [abs_mul]; exact mul_le_mul h1 h2 (abs_nonneg b) (le_trans (abs_nonneg a) h1)
  exact abs_le.mp h

/-- The truncating quotient by ten is at most a tenth. -/
theorem tdiv_ten_natAbs (v : Int) : (v.tdiv 10).natAbs = v.natAbs / 10 := by
  rw [Int.natAbs_tdiv]; rfl

/-- Truncating to a multiple of ten: a multiple of ten, no larger than the value (42_coordinate_quantizer.md R128). -/
theorem truncTen_spec (v : Int) : truncTen v = 10 * v.tdiv 10 ∧ (truncTen v).natAbs ≤ v.natAbs := by
  have h : truncTen v = 10 * v.tdiv 10 := by
    have := Int.mul_tdiv_add_tmod v 10
    unfold truncTen; omega
  refine ⟨h, ?_⟩
  rw [h, Int.natAbs_mul, tdiv_ten_natAbs, show (10 : Int).natAbs = 10 from rfl]
  omega

end Sys2Proof.Machine
end

