-- ==== Sys2Proof/Laws/Bits.lean ====
section
/-! SUPPORT. Fields of a concatenation, for any widths: a numeral width is the sum it equals by evaluation, so each of these
applies with its widths given explicitly. -/

namespace Sys2Proof

/-- A field inside the upper part. -/
theorem extractLsb_append_upper {n m : Nat} (x : BitVec n) (y : BitVec m) (k l : Nat) :
    (x ++ y).extractLsb' (m + k) l = x.extractLsb' k l := by
  apply BitVec.eq_of_getLsbD_eq
  intro i hi
  have e : ¬ m + k + i < m := by omega
  have e2 : m + k + i - m = k + i := by omega
  simp [BitVec.getLsbD_append, e, e2]

/-- A field inside the lower part. -/
theorem extractLsb_append_lower {n m : Nat} (x : BitVec n) (y : BitVec m) (k l : Nat) (h : k + l ≤ m) :
    (x ++ y).extractLsb' k l = y.extractLsb' k l := by
  apply BitVec.eq_of_getLsbD_eq
  intro i hi
  have e : k + i < m := by omega
  simp [BitVec.getLsbD_append, e]

/-- A field that is the whole vector. -/
theorem extractLsb_whole {n : Nat} (x : BitVec n) : x.extractLsb' 0 n = x := by
  apply BitVec.eq_of_getLsbD_eq
  intro i hi
  simp [hi]

/-- Two adjacent fields put together are one field. -/
theorem extractLsb_adjacent {w : Nat} (x : BitVec w) (k n m : Nat) :
    x.extractLsb' (k + m) n ++ x.extractLsb' k m = x.extractLsb' k (n + m) := by
  apply BitVec.eq_of_getLsbD_eq
  intro i hi
  by_cases h : i < m
  · simp only [BitVec.getLsbD_append, h, if_true, BitVec.getLsbD_extractLsb', hi, decide_true, Bool.true_and]
  · have e : i - m < n := by omega
    have e2 : k + m + (i - m) = k + i := by omega
    simp only [BitVec.getLsbD_append, h, if_false, BitVec.getLsbD_extractLsb', e, e2, hi, decide_true, Bool.true_and]

end Sys2Proof
end

