-- ==== Sys2Proof/Laws/Decode.lean ====
section
/-! SUPPORT. The two fields of a command word (30_encoding.md R61): what they read of a word put together, and that they are
the whole word. -/

namespace Sys2Proof

theorem opField_append (op : Byte) (a : Word) : opField (op ++ a) = op := by
  apply BitVec.eq_of_getLsbD_eq
  intro i hi
  have h := BitVec.getLsbD_append (x := op) (y := a) (i := 32 + i)
  simp only [opField, BitVec.getLsbD_extractLsb', hi, decide_true, Bool.true_and]
  exact h.trans (by simp)

theorem argField_append (op : Byte) (a : Word) : argField (op ++ a) = a := by
  apply BitVec.eq_of_getLsbD_eq
  intro i hi
  have h := BitVec.getLsbD_append (x := op) (y := a) (i := 0 + i)
  simp only [argField, BitVec.getLsbD_extractLsb', hi, decide_true, Bool.true_and]
  exact h.trans (by simp [hi])

/-- The two fields are the whole word (R61). -/
theorem append_fields (w : CommandWord) : opField w ++ argField w = w := by
  apply BitVec.eq_of_getLsbD_eq
  intro i hi
  have h := BitVec.getLsbD_append (x := opField w) (y := argField w) (i := i)
  refine h.trans ?_
  simp only [opField, argField, BitVec.getLsbD_extractLsb']
  by_cases h32 : i < 32
  · simp [h32]
  · have h8 : i - 32 < 8 := by omega
    have e : 32 + (i - 32) = i := by omega
    simp [h32, h8, e]

@[simp] theorem opField_encode (i : Instr) : opField (encode i) = opcodeOf i := opField_append _ _
@[simp] theorem argField_encode (i : Instr) : argField (encode i) = encodedArg i := argField_append _ _

end Sys2Proof
end

