-- ==== Sys2Proof/Laws/State.lean ====
section
/-! SUPPORT. One lemma per field per update of the state, so that no proof unfolds a record update. -/

namespace Sys2Proof.Machine

/-! ### advance -/

@[simp] theorem advance_cfg (s : State) (n : Nat) (evs : List Event) : (advance s n evs).cfg = s.cfg := rfl
@[simp] theorem advance_initialized (s : State) (n : Nat) (evs : List Event) : (advance s n evs).initialized = s.initialized := rfl
@[simp] theorem advance_enable (s : State) (n : Nat) (evs : List Event) : (advance s n evs).enable = s.enable := rfl
@[simp] theorem advance_busOpen (s : State) (n : Nat) (evs : List Event) : (advance s n evs).busOpen = s.busOpen := rfl
@[simp] theorem advance_delay (s : State) (n : Nat) (evs : List Event) : (advance s n evs).delay = s.delay := rfl
@[simp] theorem advance_avg (s : State) (n : Nat) (evs : List Event) : (advance s n evs).avg = s.avg := rfl
@[simp] theorem advance_position (s : State) (n : Nat) (evs : List Event) : (advance s n evs).position = s.position := rfl
@[simp] theorem advance_mstate (s : State) (n : Nat) (evs : List Event) : (advance s n evs).mstate = s.mstate := rfl
@[simp] theorem advance_invalid (s : State) (n : Nat) (evs : List Event) : (advance s n evs).invalid = s.invalid := rfl
@[simp] theorem advance_onset (s : State) (n : Nat) (evs : List Event) : (advance s n evs).onset = s.onset := rfl
@[simp] theorem advance_lclk (s : State) (n : Nat) (evs : List Event) : (advance s n evs).lclk = s.lclk := rfl
@[simp] theorem advance_model (s : State) (n : Nat) (evs : List Event) : (advance s n evs).model = s.model := rfl
@[simp] theorem advance_hwoff (s : State) (n : Nat) (evs : List Event) : (advance s n evs).hwoff = s.hwoff := rfl
@[simp] theorem advance_lastRaw (s : State) (n : Nat) (evs : List Event) : (advance s n evs).lastRaw = s.lastRaw := rfl
@[simp] theorem advance_lastRawT (s : State) (n : Nat) (evs : List Event) : (advance s n evs).lastRawT = s.lastRawT := rfl
@[simp] theorem advance_base (s : State) (n : Nat) (evs : List Event) : (advance s n evs).base = s.base := rfl
@[simp] theorem advance_raw (s : State) (n : Nat) (evs : List Event) : (advance s n evs).raw = s.raw := rfl
@[simp] theorem advance_c (s : State) (n : Nat) (evs : List Event) : (advance s n evs).c = s.c := rfl
@[simp] theorem advance_ovf (s : State) (n : Nat) (evs : List Event) : (advance s n evs).ovf = s.ovf := rfl
@[simp] theorem advance_p (s : State) (n : Nat) (evs : List Event) : (advance s n evs).p = s.p := rfl
@[simp] theorem advance_v (s : State) (n : Nat) (evs : List Event) : (advance s n evs).v = s.v := rfl
@[simp] theorem advance_q (s : State) (n : Nat) (evs : List Event) : (advance s n evs).q = s.q := rfl
@[simp] theorem advance_acc (s : State) (n : Nat) (evs : List Event) : (advance s n evs).acc = s.acc := rfl
@[simp] theorem advance_port (s : State) (n : Nat) (evs : List Event) : (advance s n evs).port = s.port := rfl
@[simp] theorem advance_response (s : State) (n : Nat) (evs : List Event) : (advance s n evs).response = s.response := rfl
@[simp] theorem advance_trace (s : State) (n : Nat) (evs : List Event) : (advance s n evs).trace = s.trace ++ evs := rfl
@[simp] theorem advance_busScript (s : State) (n : Nat) (evs : List Event) : (advance s n evs).busScript = s.busScript.drop n := rfl
@[simp] theorem advance_busDraws (s : State) (n : Nat) (evs : List Event) : (advance s n evs).busDraws = s.busDraws + n := rfl
@[simp] theorem advance_clockScript (s : State) (n : Nat) (evs : List Event) : (advance s n evs).clockScript = s.clockScript := rfl
@[simp] theorem advance_clockDraws (s : State) (n : Nat) (evs : List Event) : (advance s n evs).clockDraws = s.clockDraws := rfl
@[simp] theorem advance_freeDraws (s : State) (n : Nat) (evs : List Event) : (advance s n evs).freeDraws = s.freeDraws := rfl

/-! ### openEffect -/

@[simp] theorem openEffect_cfg (s : State) : (openEffect s).cfg = s.cfg := rfl
@[simp] theorem openEffect_initialized (s : State) : (openEffect s).initialized = s.initialized := rfl
@[simp] theorem openEffect_enable (s : State) : (openEffect s).enable = s.enable := rfl
@[simp] theorem openEffect_busOpen (s : State) : (openEffect s).busOpen = (s.busOpen || busOkAt s 0) := rfl
@[simp] theorem openEffect_delay (s : State) : (openEffect s).delay = s.delay := rfl
@[simp] theorem openEffect_avg (s : State) : (openEffect s).avg = s.avg := rfl
@[simp] theorem openEffect_position (s : State) : (openEffect s).position = s.position := rfl
@[simp] theorem openEffect_mstate (s : State) : (openEffect s).mstate = s.mstate := rfl
@[simp] theorem openEffect_invalid (s : State) : (openEffect s).invalid = s.invalid := rfl
@[simp] theorem openEffect_onset (s : State) : (openEffect s).onset = s.onset := rfl
@[simp] theorem openEffect_lclk (s : State) : (openEffect s).lclk = s.lclk := rfl
@[simp] theorem openEffect_model (s : State) : (openEffect s).model = s.model := rfl
@[simp] theorem openEffect_hwoff (s : State) : (openEffect s).hwoff = s.hwoff := rfl
@[simp] theorem openEffect_lastRaw (s : State) : (openEffect s).lastRaw = s.lastRaw := rfl
@[simp] theorem openEffect_lastRawT (s : State) : (openEffect s).lastRawT = s.lastRawT := rfl
@[simp] theorem openEffect_base (s : State) : (openEffect s).base = s.base := rfl
@[simp] theorem openEffect_raw (s : State) : (openEffect s).raw = s.raw := rfl
@[simp] theorem openEffect_c (s : State) : (openEffect s).c = s.c := rfl
@[simp] theorem openEffect_ovf (s : State) : (openEffect s).ovf = s.ovf := rfl
@[simp] theorem openEffect_p (s : State) : (openEffect s).p = s.p := rfl
@[simp] theorem openEffect_v (s : State) : (openEffect s).v = s.v := rfl
@[simp] theorem openEffect_q (s : State) : (openEffect s).q = s.q := rfl
@[simp] theorem openEffect_acc (s : State) : (openEffect s).acc = s.acc := rfl
@[simp] theorem openEffect_port (s : State) : (openEffect s).port = s.port := rfl
@[simp] theorem openEffect_response (s : State) : (openEffect s).response = s.response := rfl
@[simp] theorem openEffect_trace (s : State) : (openEffect s).trace = s.trace ++ [.opened (busOkAt s 0)] := rfl
@[simp] theorem openEffect_busScript (s : State) : (openEffect s).busScript = s.busScript.drop 1 := rfl
@[simp] theorem openEffect_busDraws (s : State) : (openEffect s).busDraws = s.busDraws + 1 := rfl
@[simp] theorem openEffect_clockScript (s : State) : (openEffect s).clockScript = s.clockScript := rfl
@[simp] theorem openEffect_clockDraws (s : State) : (openEffect s).clockDraws = s.clockDraws := rfl
@[simp] theorem openEffect_freeDraws (s : State) : (openEffect s).freeDraws = s.freeDraws := rfl

/-! ### closeEffect -/

@[simp] theorem closeEffect_cfg (s : State) : (closeEffect s).cfg = s.cfg := rfl
@[simp] theorem closeEffect_initialized (s : State) : (closeEffect s).initialized = s.initialized := rfl
@[simp] theorem closeEffect_enable (s : State) : (closeEffect s).enable = s.enable := rfl
@[simp] theorem closeEffect_busOpen (s : State) : (closeEffect s).busOpen = false := rfl
@[simp] theorem closeEffect_delay (s : State) : (closeEffect s).delay = s.delay := rfl
@[simp] theorem closeEffect_avg (s : State) : (closeEffect s).avg = s.avg := rfl
@[simp] theorem closeEffect_position (s : State) : (closeEffect s).position = s.position := rfl
@[simp] theorem closeEffect_mstate (s : State) : (closeEffect s).mstate = s.mstate := rfl
@[simp] theorem closeEffect_invalid (s : State) : (closeEffect s).invalid = s.invalid := rfl
@[simp] theorem closeEffect_onset (s : State) : (closeEffect s).onset = s.onset := rfl
@[simp] theorem closeEffect_lclk (s : State) : (closeEffect s).lclk = s.lclk := rfl
@[simp] theorem closeEffect_model (s : State) : (closeEffect s).model = s.model := rfl
@[simp] theorem closeEffect_hwoff (s : State) : (closeEffect s).hwoff = s.hwoff := rfl
@[simp] theorem closeEffect_lastRaw (s : State) : (closeEffect s).lastRaw = s.lastRaw := rfl
@[simp] theorem closeEffect_lastRawT (s : State) : (closeEffect s).lastRawT = s.lastRawT := rfl
@[simp] theorem closeEffect_base (s : State) : (closeEffect s).base = s.base := rfl
@[simp] theorem closeEffect_raw (s : State) : (closeEffect s).raw = s.raw := rfl
@[simp] theorem closeEffect_c (s : State) : (closeEffect s).c = s.c := rfl
@[simp] theorem closeEffect_ovf (s : State) : (closeEffect s).ovf = s.ovf := rfl
@[simp] theorem closeEffect_p (s : State) : (closeEffect s).p = s.p := rfl
@[simp] theorem closeEffect_v (s : State) : (closeEffect s).v = s.v := rfl
@[simp] theorem closeEffect_q (s : State) : (closeEffect s).q = s.q := rfl
@[simp] theorem closeEffect_acc (s : State) : (closeEffect s).acc = s.acc := rfl
@[simp] theorem closeEffect_port (s : State) : (closeEffect s).port = s.port := rfl
@[simp] theorem closeEffect_response (s : State) : (closeEffect s).response = s.response := rfl
@[simp] theorem closeEffect_trace (s : State) : (closeEffect s).trace = s.trace ++ [.closed (busOkAt s 0)] := rfl
@[simp] theorem closeEffect_busScript (s : State) : (closeEffect s).busScript = s.busScript.drop 1 := rfl
@[simp] theorem closeEffect_busDraws (s : State) : (closeEffect s).busDraws = s.busDraws + 1 := rfl
@[simp] theorem closeEffect_clockScript (s : State) : (closeEffect s).clockScript = s.clockScript := rfl
@[simp] theorem closeEffect_clockDraws (s : State) : (closeEffect s).clockDraws = s.clockDraws := rfl
@[simp] theorem closeEffect_freeDraws (s : State) : (closeEffect s).freeDraws = s.freeDraws := rfl

/-! ### readEffect -/

@[simp] theorem readEffect_cfg (a : Byte) (n : Nat) (s : State) : (readEffect a n s).cfg = s.cfg := rfl
@[simp] theorem readEffect_initialized (a : Byte) (n : Nat) (s : State) : (readEffect a n s).initialized = s.initialized := rfl
@[simp] theorem readEffect_enable (a : Byte) (n : Nat) (s : State) : (readEffect a n s).enable = s.enable := rfl
@[simp] theorem readEffect_busOpen (a : Byte) (n : Nat) (s : State) : (readEffect a n s).busOpen = s.busOpen := rfl
@[simp] theorem readEffect_delay (a : Byte) (n : Nat) (s : State) : (readEffect a n s).delay = s.delay := rfl
@[simp] theorem readEffect_avg (a : Byte) (n : Nat) (s : State) : (readEffect a n s).avg = s.avg := rfl
@[simp] theorem readEffect_position (a : Byte) (n : Nat) (s : State) : (readEffect a n s).position = s.position := rfl
@[simp] theorem readEffect_mstate (a : Byte) (n : Nat) (s : State) : (readEffect a n s).mstate = s.mstate := rfl
@[simp] theorem readEffect_invalid (a : Byte) (n : Nat) (s : State) : (readEffect a n s).invalid = s.invalid := rfl
@[simp] theorem readEffect_onset (a : Byte) (n : Nat) (s : State) : (readEffect a n s).onset = s.onset := rfl
@[simp] theorem readEffect_lclk (a : Byte) (n : Nat) (s : State) : (readEffect a n s).lclk = s.lclk := rfl
@[simp] theorem readEffect_model (a : Byte) (n : Nat) (s : State) : (readEffect a n s).model = s.model := rfl
@[simp] theorem readEffect_hwoff (a : Byte) (n : Nat) (s : State) : (readEffect a n s).hwoff = s.hwoff := rfl
@[simp] theorem readEffect_lastRaw (a : Byte) (n : Nat) (s : State) : (readEffect a n s).lastRaw = s.lastRaw := rfl
@[simp] theorem readEffect_lastRawT (a : Byte) (n : Nat) (s : State) : (readEffect a n s).lastRawT = s.lastRawT := rfl
@[simp] theorem readEffect_base (a : Byte) (n : Nat) (s : State) : (readEffect a n s).base = s.base := rfl
@[simp] theorem readEffect_raw (a : Byte) (n : Nat) (s : State) : (readEffect a n s).raw = s.raw := rfl
@[simp] theorem readEffect_c (a : Byte) (n : Nat) (s : State) : (readEffect a n s).c = s.c := rfl
@[simp] theorem readEffect_ovf (a : Byte) (n : Nat) (s : State) : (readEffect a n s).ovf = s.ovf := rfl
@[simp] theorem readEffect_p (a : Byte) (n : Nat) (s : State) : (readEffect a n s).p = s.p := rfl
@[simp] theorem readEffect_v (a : Byte) (n : Nat) (s : State) : (readEffect a n s).v = s.v := rfl
@[simp] theorem readEffect_q (a : Byte) (n : Nat) (s : State) : (readEffect a n s).q = s.q := rfl
@[simp] theorem readEffect_acc (a : Byte) (n : Nat) (s : State) : (readEffect a n s).acc = s.acc := rfl
@[simp] theorem readEffect_port (a : Byte) (n : Nat) (s : State) : (readEffect a n s).port = s.port := rfl
@[simp] theorem readEffect_response (a : Byte) (n : Nat) (s : State) : (readEffect a n s).response = s.response := rfl
@[simp] theorem readEffect_trace (a : Byte) (n : Nat) (s : State) : (readEffect a n s).trace = s.trace ++ [.read a n (if busOkAt s 0 then some (List.ofFn (readData s n)) else none)] := rfl
@[simp] theorem readEffect_busScript (a : Byte) (n : Nat) (s : State) : (readEffect a n s).busScript = s.busScript.drop 1 := rfl
@[simp] theorem readEffect_busDraws (a : Byte) (n : Nat) (s : State) : (readEffect a n s).busDraws = s.busDraws + 1 := rfl
@[simp] theorem readEffect_clockScript (a : Byte) (n : Nat) (s : State) : (readEffect a n s).clockScript = s.clockScript := rfl
@[simp] theorem readEffect_clockDraws (a : Byte) (n : Nat) (s : State) : (readEffect a n s).clockDraws = s.clockDraws := rfl
@[simp] theorem readEffect_freeDraws (a : Byte) (n : Nat) (s : State) : (readEffect a n s).freeDraws = s.freeDraws := rfl

/-! ### writeEffect -/

@[simp] theorem writeEffect_cfg (a b : Byte) (s : State) : (writeEffect a b s).cfg = s.cfg := rfl
@[simp] theorem writeEffect_initialized (a b : Byte) (s : State) : (writeEffect a b s).initialized = s.initialized := rfl
@[simp] theorem writeEffect_enable (a b : Byte) (s : State) : (writeEffect a b s).enable = s.enable := rfl
@[simp] theorem writeEffect_busOpen (a b : Byte) (s : State) : (writeEffect a b s).busOpen = s.busOpen := rfl
@[simp] theorem writeEffect_delay (a b : Byte) (s : State) : (writeEffect a b s).delay = s.delay := rfl
@[simp] theorem writeEffect_avg (a b : Byte) (s : State) : (writeEffect a b s).avg = s.avg := rfl
@[simp] theorem writeEffect_position (a b : Byte) (s : State) : (writeEffect a b s).position = s.position := rfl
@[simp] theorem writeEffect_mstate (a b : Byte) (s : State) : (writeEffect a b s).mstate = s.mstate := rfl
@[simp] theorem writeEffect_invalid (a b : Byte) (s : State) : (writeEffect a b s).invalid = s.invalid := rfl
@[simp] theorem writeEffect_onset (a b : Byte) (s : State) : (writeEffect a b s).onset = s.onset := rfl
@[simp] theorem writeEffect_lclk (a b : Byte) (s : State) : (writeEffect a b s).lclk = s.lclk := rfl
@[simp] theorem writeEffect_model (a b : Byte) (s : State) : (writeEffect a b s).model = s.model := rfl
@[simp] theorem writeEffect_hwoff (a b : Byte) (s : State) : (writeEffect a b s).hwoff = s.hwoff := rfl
@[simp] theorem writeEffect_lastRaw (a b : Byte) (s : State) : (writeEffect a b s).lastRaw = s.lastRaw := rfl
@[simp] theorem writeEffect_lastRawT (a b : Byte) (s : State) : (writeEffect a b s).lastRawT = s.lastRawT := rfl
@[simp] theorem writeEffect_base (a b : Byte) (s : State) : (writeEffect a b s).base = s.base := rfl
@[simp] theorem writeEffect_raw (a b : Byte) (s : State) : (writeEffect a b s).raw = s.raw := rfl
@[simp] theorem writeEffect_c (a b : Byte) (s : State) : (writeEffect a b s).c = s.c := rfl
@[simp] theorem writeEffect_ovf (a b : Byte) (s : State) : (writeEffect a b s).ovf = s.ovf := rfl
@[simp] theorem writeEffect_p (a b : Byte) (s : State) : (writeEffect a b s).p = s.p := rfl
@[simp] theorem writeEffect_v (a b : Byte) (s : State) : (writeEffect a b s).v = s.v := rfl
@[simp] theorem writeEffect_q (a b : Byte) (s : State) : (writeEffect a b s).q = s.q := rfl
@[simp] theorem writeEffect_acc (a b : Byte) (s : State) : (writeEffect a b s).acc = s.acc := rfl
@[simp] theorem writeEffect_port (a b : Byte) (s : State) : (writeEffect a b s).port = s.port := rfl
@[simp] theorem writeEffect_response (a b : Byte) (s : State) : (writeEffect a b s).response = s.response := rfl
@[simp] theorem writeEffect_trace (a b : Byte) (s : State) : (writeEffect a b s).trace = s.trace ++ [.wrote a b (busOkAt s 0)] := rfl
@[simp] theorem writeEffect_busScript (a b : Byte) (s : State) : (writeEffect a b s).busScript = s.busScript.drop 1 := rfl
@[simp] theorem writeEffect_busDraws (a b : Byte) (s : State) : (writeEffect a b s).busDraws = s.busDraws + 1 := rfl
@[simp] theorem writeEffect_clockScript (a b : Byte) (s : State) : (writeEffect a b s).clockScript = s.clockScript := rfl
@[simp] theorem writeEffect_clockDraws (a b : Byte) (s : State) : (writeEffect a b s).clockDraws = s.clockDraws := rfl
@[simp] theorem writeEffect_freeDraws (a b : Byte) (s : State) : (writeEffect a b s).freeDraws = s.freeDraws := rfl

/-! ### deliver -/

@[simp] theorem deliver_cfg (r : Response) (s : State) : (deliver r s).cfg = s.cfg := rfl
@[simp] theorem deliver_initialized (r : Response) (s : State) : (deliver r s).initialized = s.initialized := rfl
@[simp] theorem deliver_enable (r : Response) (s : State) : (deliver r s).enable = s.enable := rfl
@[simp] theorem deliver_busOpen (r : Response) (s : State) : (deliver r s).busOpen = s.busOpen := rfl
@[simp] theorem deliver_delay (r : Response) (s : State) : (deliver r s).delay = s.delay := rfl
@[simp] theorem deliver_avg (r : Response) (s : State) : (deliver r s).avg = s.avg := rfl
@[simp] theorem deliver_position (r : Response) (s : State) : (deliver r s).position = s.position := rfl
@[simp] theorem deliver_mstate (r : Response) (s : State) : (deliver r s).mstate = s.mstate := rfl
@[simp] theorem deliver_invalid (r : Response) (s : State) : (deliver r s).invalid = s.invalid := rfl
@[simp] theorem deliver_onset (r : Response) (s : State) : (deliver r s).onset = s.onset := rfl
@[simp] theorem deliver_lclk (r : Response) (s : State) : (deliver r s).lclk = s.lclk := rfl
@[simp] theorem deliver_model (r : Response) (s : State) : (deliver r s).model = s.model := rfl
@[simp] theorem deliver_hwoff (r : Response) (s : State) : (deliver r s).hwoff = s.hwoff := rfl
@[simp] theorem deliver_lastRaw (r : Response) (s : State) : (deliver r s).lastRaw = s.lastRaw := rfl
@[simp] theorem deliver_lastRawT (r : Response) (s : State) : (deliver r s).lastRawT = s.lastRawT := rfl
@[simp] theorem deliver_base (r : Response) (s : State) : (deliver r s).base = s.base := rfl
@[simp] theorem deliver_raw (r : Response) (s : State) : (deliver r s).raw = s.raw := rfl
@[simp] theorem deliver_c (r : Response) (s : State) : (deliver r s).c = s.c := rfl
@[simp] theorem deliver_ovf (r : Response) (s : State) : (deliver r s).ovf = s.ovf := rfl
@[simp] theorem deliver_p (r : Response) (s : State) : (deliver r s).p = s.p := rfl
@[simp] theorem deliver_v (r : Response) (s : State) : (deliver r s).v = s.v := rfl
@[simp] theorem deliver_q (r : Response) (s : State) : (deliver r s).q = s.q := rfl
@[simp] theorem deliver_acc (r : Response) (s : State) : (deliver r s).acc = s.acc := rfl
@[simp] theorem deliver_port (r : Response) (s : State) : (deliver r s).port = s.port := rfl
@[simp] theorem deliver_response (r : Response) (s : State) : (deliver r s).response = some r := rfl
@[simp] theorem deliver_trace (r : Response) (s : State) : (deliver r s).trace = s.trace := rfl
@[simp] theorem deliver_busScript (r : Response) (s : State) : (deliver r s).busScript = s.busScript := rfl
@[simp] theorem deliver_busDraws (r : Response) (s : State) : (deliver r s).busDraws = s.busDraws := rfl
@[simp] theorem deliver_clockScript (r : Response) (s : State) : (deliver r s).clockScript = s.clockScript := rfl
@[simp] theorem deliver_clockDraws (r : Response) (s : State) : (deliver r s).clockDraws = s.clockDraws := rfl
@[simp] theorem deliver_freeDraws (r : Response) (s : State) : (deliver r s).freeDraws = s.freeDraws := rfl

/-! ### respondError -/

@[simp] theorem respondError_cfg (e : ErrKind) (s : State) : (respondError e s).cfg = s.cfg := rfl
@[simp] theorem respondError_initialized (e : ErrKind) (s : State) : (respondError e s).initialized = s.initialized := rfl
@[simp] theorem respondError_enable (e : ErrKind) (s : State) : (respondError e s).enable = s.enable := rfl
@[simp] theorem respondError_busOpen (e : ErrKind) (s : State) : (respondError e s).busOpen = s.busOpen := rfl
@[simp] theorem respondError_delay (e : ErrKind) (s : State) : (respondError e s).delay = s.delay := rfl
@[simp] theorem respondError_avg (e : ErrKind) (s : State) : (respondError e s).avg = s.avg := rfl
@[simp] theorem respondError_position (e : ErrKind) (s : State) : (respondError e s).position = s.position := rfl
@[simp] theorem respondError_mstate (e : ErrKind) (s : State) : (respondError e s).mstate = s.mstate := rfl
@[simp] theorem respondError_invalid (e : ErrKind) (s : State) : (respondError e s).invalid = s.invalid := rfl
@[simp] theorem respondError_onset (e : ErrKind) (s : State) : (respondError e s).onset = s.onset := rfl
@[simp] theorem respondError_lclk (e : ErrKind) (s : State) : (respondError e s).lclk = s.lclk := rfl
@[simp] theorem respondError_model (e : ErrKind) (s : State) : (respondError e s).model = s.model := rfl
@[simp] theorem respondError_hwoff (e : ErrKind) (s : State) : (respondError e s).hwoff = s.hwoff := rfl
@[simp] theorem respondError_lastRaw (e : ErrKind) (s : State) : (respondError e s).lastRaw = s.lastRaw := rfl
@[simp] theorem respondError_lastRawT (e : ErrKind) (s : State) : (respondError e s).lastRawT = s.lastRawT := rfl
@[simp] theorem respondError_base (e : ErrKind) (s : State) : (respondError e s).base = s.base := rfl
@[simp] theorem respondError_raw (e : ErrKind) (s : State) : (respondError e s).raw = s.raw := rfl
@[simp] theorem respondError_c (e : ErrKind) (s : State) : (respondError e s).c = s.c := rfl
@[simp] theorem respondError_ovf (e : ErrKind) (s : State) : (respondError e s).ovf = s.ovf := rfl
@[simp] theorem respondError_p (e : ErrKind) (s : State) : (respondError e s).p = s.p := rfl
@[simp] theorem respondError_v (e : ErrKind) (s : State) : (respondError e s).v = s.v := rfl
@[simp] theorem respondError_q (e : ErrKind) (s : State) : (respondError e s).q = s.q := rfl
@[simp] theorem respondError_acc (e : ErrKind) (s : State) : (respondError e s).acc = s.acc := rfl
@[simp] theorem respondError_port (e : ErrKind) (s : State) : (respondError e s).port = s.port := rfl
@[simp] theorem respondError_response (e : ErrKind) (s : State) : (respondError e s).response = some (errorResponse e) := rfl
@[simp] theorem respondError_trace (e : ErrKind) (s : State) : (respondError e s).trace = s.trace := rfl
@[simp] theorem respondError_busScript (e : ErrKind) (s : State) : (respondError e s).busScript = s.busScript := rfl
@[simp] theorem respondError_busDraws (e : ErrKind) (s : State) : (respondError e s).busDraws = s.busDraws := rfl
@[simp] theorem respondError_clockScript (e : ErrKind) (s : State) : (respondError e s).clockScript = s.clockScript := rfl
@[simp] theorem respondError_clockDraws (e : ErrKind) (s : State) : (respondError e s).clockDraws = s.clockDraws := rfl
@[simp] theorem respondError_freeDraws (e : ErrKind) (s : State) : (respondError e s).freeDraws = s.freeDraws := rfl

/-! ### placeCommand -/

@[simp] theorem placeCommand_cfg (w : CommandWord) (s : State) : (placeCommand w s).cfg = s.cfg := rfl
@[simp] theorem placeCommand_initialized (w : CommandWord) (s : State) : (placeCommand w s).initialized = s.initialized := rfl
@[simp] theorem placeCommand_enable (w : CommandWord) (s : State) : (placeCommand w s).enable = s.enable := rfl
@[simp] theorem placeCommand_busOpen (w : CommandWord) (s : State) : (placeCommand w s).busOpen = s.busOpen := rfl
@[simp] theorem placeCommand_delay (w : CommandWord) (s : State) : (placeCommand w s).delay = s.delay := rfl
@[simp] theorem placeCommand_avg (w : CommandWord) (s : State) : (placeCommand w s).avg = s.avg := rfl
@[simp] theorem placeCommand_position (w : CommandWord) (s : State) : (placeCommand w s).position = s.position := rfl
@[simp] theorem placeCommand_mstate (w : CommandWord) (s : State) : (placeCommand w s).mstate = s.mstate := rfl
@[simp] theorem placeCommand_invalid (w : CommandWord) (s : State) : (placeCommand w s).invalid = s.invalid := rfl
@[simp] theorem placeCommand_onset (w : CommandWord) (s : State) : (placeCommand w s).onset = s.onset := rfl
@[simp] theorem placeCommand_lclk (w : CommandWord) (s : State) : (placeCommand w s).lclk = s.lclk := rfl
@[simp] theorem placeCommand_model (w : CommandWord) (s : State) : (placeCommand w s).model = s.model := rfl
@[simp] theorem placeCommand_hwoff (w : CommandWord) (s : State) : (placeCommand w s).hwoff = s.hwoff := rfl
@[simp] theorem placeCommand_lastRaw (w : CommandWord) (s : State) : (placeCommand w s).lastRaw = s.lastRaw := rfl
@[simp] theorem placeCommand_lastRawT (w : CommandWord) (s : State) : (placeCommand w s).lastRawT = s.lastRawT := rfl
@[simp] theorem placeCommand_base (w : CommandWord) (s : State) : (placeCommand w s).base = s.base := rfl
@[simp] theorem placeCommand_raw (w : CommandWord) (s : State) : (placeCommand w s).raw = s.raw := rfl
@[simp] theorem placeCommand_c (w : CommandWord) (s : State) : (placeCommand w s).c = s.c := rfl
@[simp] theorem placeCommand_ovf (w : CommandWord) (s : State) : (placeCommand w s).ovf = s.ovf := rfl
@[simp] theorem placeCommand_p (w : CommandWord) (s : State) : (placeCommand w s).p = s.p := rfl
@[simp] theorem placeCommand_v (w : CommandWord) (s : State) : (placeCommand w s).v = s.v := rfl
@[simp] theorem placeCommand_q (w : CommandWord) (s : State) : (placeCommand w s).q = s.q := rfl
@[simp] theorem placeCommand_acc (w : CommandWord) (s : State) : (placeCommand w s).acc = s.acc := rfl
@[simp] theorem placeCommand_port (w : CommandWord) (s : State) : (placeCommand w s).port = w :: s.port := rfl
@[simp] theorem placeCommand_response (w : CommandWord) (s : State) : (placeCommand w s).response = s.response := rfl
@[simp] theorem placeCommand_trace (w : CommandWord) (s : State) : (placeCommand w s).trace = s.trace := rfl
@[simp] theorem placeCommand_busScript (w : CommandWord) (s : State) : (placeCommand w s).busScript = s.busScript := rfl
@[simp] theorem placeCommand_busDraws (w : CommandWord) (s : State) : (placeCommand w s).busDraws = s.busDraws := rfl
@[simp] theorem placeCommand_clockScript (w : CommandWord) (s : State) : (placeCommand w s).clockScript = s.clockScript := rfl
@[simp] theorem placeCommand_clockDraws (w : CommandWord) (s : State) : (placeCommand w s).clockDraws = s.clockDraws := rfl
@[simp] theorem placeCommand_freeDraws (w : CommandWord) (s : State) : (placeCommand w s).freeDraws = s.freeDraws := rfl

/-! ### commitV0 -/

@[simp] theorem commitV0_cfg (B : CalBlock) (s : State) : (commitV0 B s).cfg = s.cfg := rfl
@[simp] theorem commitV0_initialized (B : CalBlock) (s : State) : (commitV0 B s).initialized = s.initialized := rfl
@[simp] theorem commitV0_enable (B : CalBlock) (s : State) : (commitV0 B s).enable = s.enable := rfl
@[simp] theorem commitV0_busOpen (B : CalBlock) (s : State) : (commitV0 B s).busOpen = s.busOpen := rfl
@[simp] theorem commitV0_delay (B : CalBlock) (s : State) : (commitV0 B s).delay = s.delay := rfl
@[simp] theorem commitV0_avg (B : CalBlock) (s : State) : (commitV0 B s).avg = s.avg := rfl
@[simp] theorem commitV0_position (B : CalBlock) (s : State) : (commitV0 B s).position = s.position := rfl
@[simp] theorem commitV0_mstate (B : CalBlock) (s : State) : (commitV0 B s).mstate = s.mstate := rfl
@[simp] theorem commitV0_invalid (B : CalBlock) (s : State) : (commitV0 B s).invalid = s.invalid := rfl
@[simp] theorem commitV0_onset (B : CalBlock) (s : State) : (commitV0 B s).onset = s.onset := rfl
@[simp] theorem commitV0_lclk (B : CalBlock) (s : State) : (commitV0 B s).lclk = s.lclk := rfl
@[simp] theorem commitV0_model (B : CalBlock) (s : State) : (commitV0 B s).model = passThroughModel s.freeDraws := rfl
@[simp] theorem commitV0_hwoff (B : CalBlock) (s : State) : (commitV0 B s).hwoff = hwoffOf B := rfl
@[simp] theorem commitV0_lastRaw (B : CalBlock) (s : State) : (commitV0 B s).lastRaw = s.lastRaw := rfl
@[simp] theorem commitV0_lastRawT (B : CalBlock) (s : State) : (commitV0 B s).lastRawT = s.lastRawT := rfl
@[simp] theorem commitV0_base (B : CalBlock) (s : State) : (commitV0 B s).base = s.base := rfl
@[simp] theorem commitV0_raw (B : CalBlock) (s : State) : (commitV0 B s).raw = s.raw := rfl
@[simp] theorem commitV0_c (B : CalBlock) (s : State) : (commitV0 B s).c = s.c := rfl
@[simp] theorem commitV0_ovf (B : CalBlock) (s : State) : (commitV0 B s).ovf = s.ovf := rfl
@[simp] theorem commitV0_p (B : CalBlock) (s : State) : (commitV0 B s).p = s.p := rfl
@[simp] theorem commitV0_v (B : CalBlock) (s : State) : (commitV0 B s).v = s.v := rfl
@[simp] theorem commitV0_q (B : CalBlock) (s : State) : (commitV0 B s).q = s.q := rfl
@[simp] theorem commitV0_acc (B : CalBlock) (s : State) : (commitV0 B s).acc = s.acc := rfl
@[simp] theorem commitV0_port (B : CalBlock) (s : State) : (commitV0 B s).port = s.port := rfl
@[simp] theorem commitV0_response (B : CalBlock) (s : State) : (commitV0 B s).response = s.response := rfl
@[simp] theorem commitV0_trace (B : CalBlock) (s : State) : (commitV0 B s).trace = s.trace := rfl
@[simp] theorem commitV0_busScript (B : CalBlock) (s : State) : (commitV0 B s).busScript = s.busScript := rfl
@[simp] theorem commitV0_busDraws (B : CalBlock) (s : State) : (commitV0 B s).busDraws = s.busDraws := rfl
@[simp] theorem commitV0_clockScript (B : CalBlock) (s : State) : (commitV0 B s).clockScript = s.clockScript := rfl
@[simp] theorem commitV0_clockDraws (B : CalBlock) (s : State) : (commitV0 B s).clockDraws = s.clockDraws := rfl
@[simp] theorem commitV0_freeDraws (B : CalBlock) (s : State) : (commitV0 B s).freeDraws = s.freeDraws + 1 := rfl

/-! ### commitV1 -/

@[simp] theorem commitV1_cfg (B : CalBlock) (s : State) : (commitV1 B s).cfg = s.cfg := rfl
@[simp] theorem commitV1_initialized (B : CalBlock) (s : State) : (commitV1 B s).initialized = s.initialized := rfl
@[simp] theorem commitV1_enable (B : CalBlock) (s : State) : (commitV1 B s).enable = s.enable := rfl
@[simp] theorem commitV1_busOpen (B : CalBlock) (s : State) : (commitV1 B s).busOpen = s.busOpen := rfl
@[simp] theorem commitV1_delay (B : CalBlock) (s : State) : (commitV1 B s).delay = s.delay := rfl
@[simp] theorem commitV1_avg (B : CalBlock) (s : State) : (commitV1 B s).avg = s.avg := rfl
@[simp] theorem commitV1_position (B : CalBlock) (s : State) : (commitV1 B s).position = s.position := rfl
@[simp] theorem commitV1_mstate (B : CalBlock) (s : State) : (commitV1 B s).mstate = s.mstate := rfl
@[simp] theorem commitV1_invalid (B : CalBlock) (s : State) : (commitV1 B s).invalid = s.invalid := rfl
@[simp] theorem commitV1_onset (B : CalBlock) (s : State) : (commitV1 B s).onset = s.onset := rfl
@[simp] theorem commitV1_lclk (B : CalBlock) (s : State) : (commitV1 B s).lclk = s.lclk := rfl
@[simp] theorem commitV1_model (B : CalBlock) (s : State) : (commitV1 B s).model = decodeModel s.cfg.calLayout B := rfl
@[simp] theorem commitV1_hwoff (B : CalBlock) (s : State) : (commitV1 B s).hwoff = hwoffOf B := rfl
@[simp] theorem commitV1_lastRaw (B : CalBlock) (s : State) : (commitV1 B s).lastRaw = s.lastRaw := rfl
@[simp] theorem commitV1_lastRawT (B : CalBlock) (s : State) : (commitV1 B s).lastRawT = s.lastRawT := rfl
@[simp] theorem commitV1_base (B : CalBlock) (s : State) : (commitV1 B s).base = s.base := rfl
@[simp] theorem commitV1_raw (B : CalBlock) (s : State) : (commitV1 B s).raw = s.raw := rfl
@[simp] theorem commitV1_c (B : CalBlock) (s : State) : (commitV1 B s).c = s.c := rfl
@[simp] theorem commitV1_ovf (B : CalBlock) (s : State) : (commitV1 B s).ovf = s.ovf := rfl
@[simp] theorem commitV1_p (B : CalBlock) (s : State) : (commitV1 B s).p = s.p := rfl
@[simp] theorem commitV1_v (B : CalBlock) (s : State) : (commitV1 B s).v = s.v := rfl
@[simp] theorem commitV1_q (B : CalBlock) (s : State) : (commitV1 B s).q = s.q := rfl
@[simp] theorem commitV1_acc (B : CalBlock) (s : State) : (commitV1 B s).acc = s.acc := rfl
@[simp] theorem commitV1_port (B : CalBlock) (s : State) : (commitV1 B s).port = s.port := rfl
@[simp] theorem commitV1_response (B : CalBlock) (s : State) : (commitV1 B s).response = s.response := rfl
@[simp] theorem commitV1_trace (B : CalBlock) (s : State) : (commitV1 B s).trace = s.trace := rfl
@[simp] theorem commitV1_busScript (B : CalBlock) (s : State) : (commitV1 B s).busScript = s.busScript := rfl
@[simp] theorem commitV1_busDraws (B : CalBlock) (s : State) : (commitV1 B s).busDraws = s.busDraws := rfl
@[simp] theorem commitV1_clockScript (B : CalBlock) (s : State) : (commitV1 B s).clockScript = s.clockScript := rfl
@[simp] theorem commitV1_clockDraws (B : CalBlock) (s : State) : (commitV1 B s).clockDraws = s.clockDraws := rfl
@[simp] theorem commitV1_freeDraws (B : CalBlock) (s : State) : (commitV1 B s).freeDraws = s.freeDraws := rfl

/-! ### resetMeasurement -/

@[simp] theorem resetMeasurement_cfg (s : State) : (resetMeasurement s).cfg = s.cfg := rfl
@[simp] theorem resetMeasurement_initialized (s : State) : (resetMeasurement s).initialized = s.initialized := rfl
@[simp] theorem resetMeasurement_enable (s : State) : (resetMeasurement s).enable = s.enable := rfl
@[simp] theorem resetMeasurement_busOpen (s : State) : (resetMeasurement s).busOpen = s.busOpen := rfl
@[simp] theorem resetMeasurement_delay (s : State) : (resetMeasurement s).delay = s.delay := rfl
@[simp] theorem resetMeasurement_avg (s : State) : (resetMeasurement s).avg = s.avg := rfl
@[simp] theorem resetMeasurement_position (s : State) : (resetMeasurement s).position = s.position := rfl
@[simp] theorem resetMeasurement_mstate (s : State) : (resetMeasurement s).mstate = mNormal := rfl
@[simp] theorem resetMeasurement_invalid (s : State) : (resetMeasurement s).invalid = false := rfl
@[simp] theorem resetMeasurement_onset (s : State) : (resetMeasurement s).onset = 0 := rfl
@[simp] theorem resetMeasurement_lclk (s : State) : (resetMeasurement s).lclk = s.lclk := rfl
@[simp] theorem resetMeasurement_model (s : State) : (resetMeasurement s).model = s.model := rfl
@[simp] theorem resetMeasurement_hwoff (s : State) : (resetMeasurement s).hwoff = s.hwoff := rfl
@[simp] theorem resetMeasurement_lastRaw (s : State) : (resetMeasurement s).lastRaw = s.lastRaw := rfl
@[simp] theorem resetMeasurement_lastRawT (s : State) : (resetMeasurement s).lastRawT = s.lastRawT := rfl
@[simp] theorem resetMeasurement_base (s : State) : (resetMeasurement s).base = s.cfg.baseReset := rfl
@[simp] theorem resetMeasurement_raw (s : State) : (resetMeasurement s).raw = s.raw := rfl
@[simp] theorem resetMeasurement_c (s : State) : (resetMeasurement s).c = s.c := rfl
@[simp] theorem resetMeasurement_ovf (s : State) : (resetMeasurement s).ovf = s.ovf := rfl
@[simp] theorem resetMeasurement_p (s : State) : (resetMeasurement s).p = s.p := rfl
@[simp] theorem resetMeasurement_v (s : State) : (resetMeasurement s).v = s.v := rfl
@[simp] theorem resetMeasurement_q (s : State) : (resetMeasurement s).q = s.q := rfl
@[simp] theorem resetMeasurement_acc (s : State) : (resetMeasurement s).acc = s.acc := rfl
@[simp] theorem resetMeasurement_port (s : State) : (resetMeasurement s).port = s.port := rfl
@[simp] theorem resetMeasurement_response (s : State) : (resetMeasurement s).response = s.response := rfl
@[simp] theorem resetMeasurement_trace (s : State) : (resetMeasurement s).trace = s.trace := rfl
@[simp] theorem resetMeasurement_busScript (s : State) : (resetMeasurement s).busScript = s.busScript := rfl
@[simp] theorem resetMeasurement_busDraws (s : State) : (resetMeasurement s).busDraws = s.busDraws := rfl
@[simp] theorem resetMeasurement_clockScript (s : State) : (resetMeasurement s).clockScript = s.clockScript := rfl
@[simp] theorem resetMeasurement_clockDraws (s : State) : (resetMeasurement s).clockDraws = s.clockDraws := rfl
@[simp] theorem resetMeasurement_freeDraws (s : State) : (resetMeasurement s).freeDraws = s.freeDraws := rfl

/-! ### initSession -/

@[simp] theorem initSession_cfg (s : State) : (initSession s).cfg = s.cfg := rfl
@[simp] theorem initSession_initialized (s : State) : (initSession s).initialized = true := rfl
@[simp] theorem initSession_enable (s : State) : (initSession s).enable = false := rfl
@[simp] theorem initSession_busOpen (s : State) : (initSession s).busOpen = s.busOpen := rfl
@[simp] theorem initSession_delay (s : State) : (initSession s).delay = s.cfg.delayDefault := rfl
@[simp] theorem initSession_avg (s : State) : (initSession s).avg = s.cfg.avgDefault := rfl
@[simp] theorem initSession_position (s : State) : (initSession s).position = s.cfg.posDefault := rfl
@[simp] theorem initSession_mstate (s : State) : (initSession s).mstate = mNormal := rfl
@[simp] theorem initSession_invalid (s : State) : (initSession s).invalid = false := rfl
@[simp] theorem initSession_onset (s : State) : (initSession s).onset = 0 := rfl
@[simp] theorem initSession_lclk (s : State) : (initSession s).lclk = 0 := rfl
@[simp] theorem initSession_model (s : State) : (initSession s).model = s.model := rfl
@[simp] theorem initSession_hwoff (s : State) : (initSession s).hwoff = ⟨0, 0, 0⟩ := rfl
@[simp] theorem initSession_lastRaw (s : State) : (initSession s).lastRaw = ⟨0, 0, 0⟩ := rfl
@[simp] theorem initSession_lastRawT (s : State) : (initSession s).lastRawT = 0 := rfl
@[simp] theorem initSession_base (s : State) : (initSession s).base = s.cfg.baseReset := rfl
@[simp] theorem initSession_raw (s : State) : (initSession s).raw = s.raw := rfl
@[simp] theorem initSession_c (s : State) : (initSession s).c = s.c := rfl
@[simp] theorem initSession_ovf (s : State) : (initSession s).ovf = s.ovf := rfl
@[simp] theorem initSession_p (s : State) : (initSession s).p = s.p := rfl
@[simp] theorem initSession_v (s : State) : (initSession s).v = s.v := rfl
@[simp] theorem initSession_q (s : State) : (initSession s).q = s.q := rfl
@[simp] theorem initSession_acc (s : State) : (initSession s).acc = s.acc := rfl
@[simp] theorem initSession_port (s : State) : (initSession s).port = s.port := rfl
@[simp] theorem initSession_response (s : State) : (initSession s).response = s.response := rfl
@[simp] theorem initSession_trace (s : State) : (initSession s).trace = s.trace := rfl
@[simp] theorem initSession_busScript (s : State) : (initSession s).busScript = s.busScript := rfl
@[simp] theorem initSession_busDraws (s : State) : (initSession s).busDraws = s.busDraws := rfl
@[simp] theorem initSession_clockScript (s : State) : (initSession s).clockScript = s.clockScript := rfl
@[simp] theorem initSession_clockDraws (s : State) : (initSession s).clockDraws = s.clockDraws := rfl
@[simp] theorem initSession_freeDraws (s : State) : (initSession s).freeDraws = s.freeDraws := rfl

/-! ### captureSample -/

@[simp] theorem captureSample_cfg (D : Fin 8 → Byte) (s : State) : (captureSample D s).cfg = s.cfg := rfl
@[simp] theorem captureSample_initialized (D : Fin 8 → Byte) (s : State) : (captureSample D s).initialized = s.initialized := rfl
@[simp] theorem captureSample_enable (D : Fin 8 → Byte) (s : State) : (captureSample D s).enable = s.enable := rfl
@[simp] theorem captureSample_busOpen (D : Fin 8 → Byte) (s : State) : (captureSample D s).busOpen = s.busOpen := rfl
@[simp] theorem captureSample_delay (D : Fin 8 → Byte) (s : State) : (captureSample D s).delay = s.delay := rfl
@[simp] theorem captureSample_avg (D : Fin 8 → Byte) (s : State) : (captureSample D s).avg = s.avg := rfl
@[simp] theorem captureSample_position (D : Fin 8 → Byte) (s : State) : (captureSample D s).position = s.position := rfl
@[simp] theorem captureSample_mstate (D : Fin 8 → Byte) (s : State) : (captureSample D s).mstate = s.mstate := rfl
@[simp] theorem captureSample_invalid (D : Fin 8 → Byte) (s : State) : (captureSample D s).invalid = s.invalid := rfl
@[simp] theorem captureSample_onset (D : Fin 8 → Byte) (s : State) : (captureSample D s).onset = s.onset := rfl
@[simp] theorem captureSample_lclk (D : Fin 8 → Byte) (s : State) : (captureSample D s).lclk = s.lclk := rfl
@[simp] theorem captureSample_model (D : Fin 8 → Byte) (s : State) : (captureSample D s).model = s.model := rfl
@[simp] theorem captureSample_hwoff (D : Fin 8 → Byte) (s : State) : (captureSample D s).hwoff = s.hwoff := rfl
@[simp] theorem captureSample_lastRaw (D : Fin 8 → Byte) (s : State) : (captureSample D s).lastRaw = (rawWords (parseSample D)).map (BitVec.setWidth 16) := rfl
@[simp] theorem captureSample_lastRawT (D : Fin 8 → Byte) (s : State) : (captureSample D s).lastRawT = (parseSample D).t := rfl
@[simp] theorem captureSample_base (D : Fin 8 → Byte) (s : State) : (captureSample D s).base = s.base := rfl
@[simp] theorem captureSample_raw (D : Fin 8 → Byte) (s : State) : (captureSample D s).raw = parseSample D := rfl
@[simp] theorem captureSample_c (D : Fin 8 → Byte) (s : State) : (captureSample D s).c = s.c := rfl
@[simp] theorem captureSample_ovf (D : Fin 8 → Byte) (s : State) : (captureSample D s).ovf = s.ovf := rfl
@[simp] theorem captureSample_p (D : Fin 8 → Byte) (s : State) : (captureSample D s).p = s.p := rfl
@[simp] theorem captureSample_v (D : Fin 8 → Byte) (s : State) : (captureSample D s).v = s.v := rfl
@[simp] theorem captureSample_q (D : Fin 8 → Byte) (s : State) : (captureSample D s).q = s.q := rfl
@[simp] theorem captureSample_acc (D : Fin 8 → Byte) (s : State) : (captureSample D s).acc = s.acc := rfl
@[simp] theorem captureSample_port (D : Fin 8 → Byte) (s : State) : (captureSample D s).port = s.port := rfl
@[simp] theorem captureSample_response (D : Fin 8 → Byte) (s : State) : (captureSample D s).response = s.response := rfl
@[simp] theorem captureSample_trace (D : Fin 8 → Byte) (s : State) : (captureSample D s).trace = s.trace := rfl
@[simp] theorem captureSample_busScript (D : Fin 8 → Byte) (s : State) : (captureSample D s).busScript = s.busScript := rfl
@[simp] theorem captureSample_busDraws (D : Fin 8 → Byte) (s : State) : (captureSample D s).busDraws = s.busDraws := rfl
@[simp] theorem captureSample_clockScript (D : Fin 8 → Byte) (s : State) : (captureSample D s).clockScript = s.clockScript := rfl
@[simp] theorem captureSample_clockDraws (D : Fin 8 → Byte) (s : State) : (captureSample D s).clockDraws = s.clockDraws := rfl
@[simp] theorem captureSample_freeDraws (D : Fin 8 → Byte) (s : State) : (captureSample D s).freeDraws = s.freeDraws := rfl

/-! ### uOvf -/

@[simp] theorem uOvf_cfg (s : State) : (uOvf s).cfg = s.cfg := rfl
@[simp] theorem uOvf_initialized (s : State) : (uOvf s).initialized = s.initialized := rfl
@[simp] theorem uOvf_enable (s : State) : (uOvf s).enable = s.enable := rfl
@[simp] theorem uOvf_busOpen (s : State) : (uOvf s).busOpen = s.busOpen := rfl
@[simp] theorem uOvf_delay (s : State) : (uOvf s).delay = s.delay := rfl
@[simp] theorem uOvf_avg (s : State) : (uOvf s).avg = s.avg := rfl
@[simp] theorem uOvf_position (s : State) : (uOvf s).position = s.position := rfl
@[simp] theorem uOvf_mstate (s : State) : (uOvf s).mstate = s.mstate := rfl
@[simp] theorem uOvf_invalid (s : State) : (uOvf s).invalid = s.invalid := rfl
@[simp] theorem uOvf_onset (s : State) : (uOvf s).onset = s.onset := rfl
@[simp] theorem uOvf_lclk (s : State) : (uOvf s).lclk = s.lclk := rfl
@[simp] theorem uOvf_model (s : State) : (uOvf s).model = s.model := rfl
@[simp] theorem uOvf_hwoff (s : State) : (uOvf s).hwoff = s.hwoff := rfl
@[simp] theorem uOvf_lastRaw (s : State) : (uOvf s).lastRaw = s.lastRaw := rfl
@[simp] theorem uOvf_lastRawT (s : State) : (uOvf s).lastRawT = s.lastRawT := rfl
@[simp] theorem uOvf_base (s : State) : (uOvf s).base = s.base := rfl
@[simp] theorem uOvf_raw (s : State) : (uOvf s).raw = s.raw := rfl
@[simp] theorem uOvf_c (s : State) : (uOvf s).c = s.c := rfl
@[simp] theorem uOvf_ovf (s : State) : (uOvf s).ovf = overflowMask s.c := rfl
@[simp] theorem uOvf_p (s : State) : (uOvf s).p = s.p := rfl
@[simp] theorem uOvf_v (s : State) : (uOvf s).v = s.v := rfl
@[simp] theorem uOvf_q (s : State) : (uOvf s).q = s.q := rfl
@[simp] theorem uOvf_acc (s : State) : (uOvf s).acc = s.acc := rfl
@[simp] theorem uOvf_port (s : State) : (uOvf s).port = s.port := rfl
@[simp] theorem uOvf_response (s : State) : (uOvf s).response = s.response := rfl
@[simp] theorem uOvf_trace (s : State) : (uOvf s).trace = s.trace := rfl
@[simp] theorem uOvf_busScript (s : State) : (uOvf s).busScript = s.busScript := rfl
@[simp] theorem uOvf_busDraws (s : State) : (uOvf s).busDraws = s.busDraws := rfl
@[simp] theorem uOvf_clockScript (s : State) : (uOvf s).clockScript = s.clockScript := rfl
@[simp] theorem uOvf_clockDraws (s : State) : (uOvf s).clockDraws = s.clockDraws := rfl
@[simp] theorem uOvf_freeDraws (s : State) : (uOvf s).freeDraws = s.freeDraws := rfl

/-! ### uConv -/

@[simp] theorem uConv_cfg (s : State) : (uConv s).cfg = s.cfg := rfl
@[simp] theorem uConv_initialized (s : State) : (uConv s).initialized = s.initialized := rfl
@[simp] theorem uConv_enable (s : State) : (uConv s).enable = s.enable := rfl
@[simp] theorem uConv_busOpen (s : State) : (uConv s).busOpen = s.busOpen := rfl
@[simp] theorem uConv_delay (s : State) : (uConv s).delay = s.delay := rfl
@[simp] theorem uConv_avg (s : State) : (uConv s).avg = s.avg := rfl
@[simp] theorem uConv_position (s : State) : (uConv s).position = s.position := rfl
@[simp] theorem uConv_mstate (s : State) : (uConv s).mstate = s.mstate := rfl
@[simp] theorem uConv_invalid (s : State) : (uConv s).invalid = s.invalid := rfl
@[simp] theorem uConv_onset (s : State) : (uConv s).onset = s.onset := rfl
@[simp] theorem uConv_lclk (s : State) : (uConv s).lclk = s.lclk := rfl
@[simp] theorem uConv_model (s : State) : (uConv s).model = s.model := rfl
@[simp] theorem uConv_hwoff (s : State) : (uConv s).hwoff = s.hwoff := rfl
@[simp] theorem uConv_lastRaw (s : State) : (uConv s).lastRaw = s.lastRaw := rfl
@[simp] theorem uConv_lastRawT (s : State) : (uConv s).lastRawT = s.lastRawT := rfl
@[simp] theorem uConv_base (s : State) : (uConv s).base = s.base := rfl
@[simp] theorem uConv_raw (s : State) : (uConv s).raw = s.raw := rfl
@[simp] theorem uConv_c (s : State) : (uConv s).c = s.c := rfl
@[simp] theorem uConv_ovf (s : State) : (uConv s).ovf = s.ovf := rfl
@[simp] theorem uConv_p (s : State) : (uConv s).p = (convInts s.c).map word32 := rfl
@[simp] theorem uConv_v (s : State) : (uConv s).v = s.v := rfl
@[simp] theorem uConv_q (s : State) : (uConv s).q = s.q := rfl
@[simp] theorem uConv_acc (s : State) : (uConv s).acc = s.acc := rfl
@[simp] theorem uConv_port (s : State) : (uConv s).port = s.port := rfl
@[simp] theorem uConv_response (s : State) : (uConv s).response = s.response := rfl
@[simp] theorem uConv_trace (s : State) : (uConv s).trace = s.trace := rfl
@[simp] theorem uConv_busScript (s : State) : (uConv s).busScript = s.busScript := rfl
@[simp] theorem uConv_busDraws (s : State) : (uConv s).busDraws = s.busDraws := rfl
@[simp] theorem uConv_clockScript (s : State) : (uConv s).clockScript = s.clockScript := rfl
@[simp] theorem uConv_clockDraws (s : State) : (uConv s).clockDraws = s.clockDraws := rfl
@[simp] theorem uConv_freeDraws (s : State) : (uConv s).freeDraws = s.freeDraws := rfl

/-! ### uQuant -/

@[simp] theorem uQuant_cfg (s : State) : (uQuant s).cfg = s.cfg := rfl
@[simp] theorem uQuant_initialized (s : State) : (uQuant s).initialized = s.initialized := rfl
@[simp] theorem uQuant_enable (s : State) : (uQuant s).enable = s.enable := rfl
@[simp] theorem uQuant_busOpen (s : State) : (uQuant s).busOpen = s.busOpen := rfl
@[simp] theorem uQuant_delay (s : State) : (uQuant s).delay = s.delay := rfl
@[simp] theorem uQuant_avg (s : State) : (uQuant s).avg = s.avg := rfl
@[simp] theorem uQuant_position (s : State) : (uQuant s).position = s.position := rfl
@[simp] theorem uQuant_mstate (s : State) : (uQuant s).mstate = s.mstate := rfl
@[simp] theorem uQuant_invalid (s : State) : (uQuant s).invalid = s.invalid := rfl
@[simp] theorem uQuant_onset (s : State) : (uQuant s).onset = s.onset := rfl
@[simp] theorem uQuant_lclk (s : State) : (uQuant s).lclk = s.lclk := rfl
@[simp] theorem uQuant_model (s : State) : (uQuant s).model = s.model := rfl
@[simp] theorem uQuant_hwoff (s : State) : (uQuant s).hwoff = s.hwoff := rfl
@[simp] theorem uQuant_lastRaw (s : State) : (uQuant s).lastRaw = s.lastRaw := rfl
@[simp] theorem uQuant_lastRawT (s : State) : (uQuant s).lastRawT = s.lastRawT := rfl
@[simp] theorem uQuant_base (s : State) : (uQuant s).base = s.base := rfl
@[simp] theorem uQuant_raw (s : State) : (uQuant s).raw = s.raw := rfl
@[simp] theorem uQuant_c (s : State) : (uQuant s).c = s.c := rfl
@[simp] theorem uQuant_ovf (s : State) : (uQuant s).ovf = s.ovf := rfl
@[simp] theorem uQuant_p (s : State) : (uQuant s).p = s.p := rfl
@[simp] theorem uQuant_v (s : State) : (uQuant s).v = s.v := rfl
@[simp] theorem uQuant_q (s : State) : (uQuant s).q = ⟨quantAxis s.ovf 0 s.v.c0, quantAxis s.ovf 1 s.v.c1, quantAxis s.ovf 2 s.v.c2⟩ := rfl
@[simp] theorem uQuant_acc (s : State) : (uQuant s).acc = s.acc := rfl
@[simp] theorem uQuant_port (s : State) : (uQuant s).port = s.port := rfl
@[simp] theorem uQuant_response (s : State) : (uQuant s).response = s.response := rfl
@[simp] theorem uQuant_trace (s : State) : (uQuant s).trace = s.trace := rfl
@[simp] theorem uQuant_busScript (s : State) : (uQuant s).busScript = s.busScript := rfl
@[simp] theorem uQuant_busDraws (s : State) : (uQuant s).busDraws = s.busDraws := rfl
@[simp] theorem uQuant_clockScript (s : State) : (uQuant s).clockScript = s.clockScript := rfl
@[simp] theorem uQuant_clockDraws (s : State) : (uQuant s).clockDraws = s.clockDraws := rfl
@[simp] theorem uQuant_freeDraws (s : State) : (uQuant s).freeDraws = s.freeDraws := rfl

/-! ### coilDone -/

@[simp] theorem coilDone_cfg (now : Word) (s : State) : (coilDone now s).cfg = s.cfg := rfl
@[simp] theorem coilDone_initialized (now : Word) (s : State) : (coilDone now s).initialized = s.initialized := rfl
@[simp] theorem coilDone_enable (now : Word) (s : State) : (coilDone now s).enable = s.enable := rfl
@[simp] theorem coilDone_busOpen (now : Word) (s : State) : (coilDone now s).busOpen = s.busOpen := rfl
@[simp] theorem coilDone_delay (now : Word) (s : State) : (coilDone now s).delay = s.delay := rfl
@[simp] theorem coilDone_avg (now : Word) (s : State) : (coilDone now s).avg = s.avg := rfl
@[simp] theorem coilDone_position (now : Word) (s : State) : (coilDone now s).position = s.position := rfl
@[simp] theorem coilDone_mstate (now : Word) (s : State) : (coilDone now s).mstate = mRecordData := rfl
@[simp] theorem coilDone_invalid (now : Word) (s : State) : (coilDone now s).invalid = s.invalid := rfl
@[simp] theorem coilDone_onset (now : Word) (s : State) : (coilDone now s).onset = now := rfl
@[simp] theorem coilDone_lclk (now : Word) (s : State) : (coilDone now s).lclk = s.lclk := rfl
@[simp] theorem coilDone_model (now : Word) (s : State) : (coilDone now s).model = s.model := rfl
@[simp] theorem coilDone_hwoff (now : Word) (s : State) : (coilDone now s).hwoff = s.hwoff := rfl
@[simp] theorem coilDone_lastRaw (now : Word) (s : State) : (coilDone now s).lastRaw = s.lastRaw := rfl
@[simp] theorem coilDone_lastRawT (now : Word) (s : State) : (coilDone now s).lastRawT = s.lastRawT := rfl
@[simp] theorem coilDone_base (now : Word) (s : State) : (coilDone now s).base = s.base := rfl
@[simp] theorem coilDone_raw (now : Word) (s : State) : (coilDone now s).raw = s.raw := rfl
@[simp] theorem coilDone_c (now : Word) (s : State) : (coilDone now s).c = s.c := rfl
@[simp] theorem coilDone_ovf (now : Word) (s : State) : (coilDone now s).ovf = s.ovf := rfl
@[simp] theorem coilDone_p (now : Word) (s : State) : (coilDone now s).p = s.p := rfl
@[simp] theorem coilDone_v (now : Word) (s : State) : (coilDone now s).v = s.v := rfl
@[simp] theorem coilDone_q (now : Word) (s : State) : (coilDone now s).q = s.q := rfl
@[simp] theorem coilDone_acc (now : Word) (s : State) : (coilDone now s).acc = s.acc := rfl
@[simp] theorem coilDone_port (now : Word) (s : State) : (coilDone now s).port = s.port := rfl
@[simp] theorem coilDone_response (now : Word) (s : State) : (coilDone now s).response = s.response := rfl
@[simp] theorem coilDone_trace (now : Word) (s : State) : (coilDone now s).trace = s.trace := rfl
@[simp] theorem coilDone_busScript (now : Word) (s : State) : (coilDone now s).busScript = s.busScript := rfl
@[simp] theorem coilDone_busDraws (now : Word) (s : State) : (coilDone now s).busDraws = s.busDraws := rfl
@[simp] theorem coilDone_clockScript (now : Word) (s : State) : (coilDone now s).clockScript = s.clockScript := rfl
@[simp] theorem coilDone_clockDraws (now : Word) (s : State) : (coilDone now s).clockDraws = s.clockDraws := rfl
@[simp] theorem coilDone_freeDraws (now : Word) (s : State) : (coilDone now s).freeDraws = s.freeDraws := rfl

/-! ### tickClock -/

@[simp] theorem tickClock_cfg (s : State) : (tickClock s).cfg = s.cfg := by unfold tickClock; split <;> rfl
@[simp] theorem tickClock_initialized (s : State) : (tickClock s).initialized = s.initialized := by unfold tickClock; split <;> rfl
@[simp] theorem tickClock_enable (s : State) : (tickClock s).enable = s.enable := by unfold tickClock; split <;> rfl
@[simp] theorem tickClock_busOpen (s : State) : (tickClock s).busOpen = s.busOpen := by unfold tickClock; split <;> rfl
@[simp] theorem tickClock_delay (s : State) : (tickClock s).delay = s.delay := by unfold tickClock; split <;> rfl
@[simp] theorem tickClock_avg (s : State) : (tickClock s).avg = s.avg := by unfold tickClock; split <;> rfl
@[simp] theorem tickClock_position (s : State) : (tickClock s).position = s.position := by unfold tickClock; split <;> rfl
@[simp] theorem tickClock_mstate (s : State) : (tickClock s).mstate = s.mstate := by unfold tickClock; split <;> rfl
@[simp] theorem tickClock_invalid (s : State) : (tickClock s).invalid = s.invalid := by unfold tickClock; split <;> rfl
@[simp] theorem tickClock_onset (s : State) : (tickClock s).onset = s.onset := by unfold tickClock; split <;> rfl
@[simp] theorem tickClock_lclk (s : State) : (tickClock s).lclk = if s.cfg.hasClock then s.lclk else s.lclk + s.delay := by
  unfold tickClock; split <;> rfl
@[simp] theorem tickClock_model (s : State) : (tickClock s).model = s.model := by unfold tickClock; split <;> rfl
@[simp] theorem tickClock_hwoff (s : State) : (tickClock s).hwoff = s.hwoff := by unfold tickClock; split <;> rfl
@[simp] theorem tickClock_lastRaw (s : State) : (tickClock s).lastRaw = s.lastRaw := by unfold tickClock; split <;> rfl
@[simp] theorem tickClock_lastRawT (s : State) : (tickClock s).lastRawT = s.lastRawT := by unfold tickClock; split <;> rfl
@[simp] theorem tickClock_base (s : State) : (tickClock s).base = s.base := by unfold tickClock; split <;> rfl
@[simp] theorem tickClock_raw (s : State) : (tickClock s).raw = s.raw := by unfold tickClock; split <;> rfl
@[simp] theorem tickClock_c (s : State) : (tickClock s).c = s.c := by unfold tickClock; split <;> rfl
@[simp] theorem tickClock_ovf (s : State) : (tickClock s).ovf = s.ovf := by unfold tickClock; split <;> rfl
@[simp] theorem tickClock_p (s : State) : (tickClock s).p = s.p := by unfold tickClock; split <;> rfl
@[simp] theorem tickClock_v (s : State) : (tickClock s).v = s.v := by unfold tickClock; split <;> rfl
@[simp] theorem tickClock_q (s : State) : (tickClock s).q = s.q := by unfold tickClock; split <;> rfl
@[simp] theorem tickClock_acc (s : State) : (tickClock s).acc = s.acc := by unfold tickClock; split <;> rfl
@[simp] theorem tickClock_port (s : State) : (tickClock s).port = s.port := by unfold tickClock; split <;> rfl
@[simp] theorem tickClock_response (s : State) : (tickClock s).response = s.response := by unfold tickClock; split <;> rfl
@[simp] theorem tickClock_trace (s : State) : (tickClock s).trace = s.trace := by unfold tickClock; split <;> rfl
@[simp] theorem tickClock_busScript (s : State) : (tickClock s).busScript = s.busScript := by unfold tickClock; split <;> rfl
@[simp] theorem tickClock_busDraws (s : State) : (tickClock s).busDraws = s.busDraws := by unfold tickClock; split <;> rfl
@[simp] theorem tickClock_clockScript (s : State) : (tickClock s).clockScript = s.clockScript := by unfold tickClock; split <;> rfl
@[simp] theorem tickClock_clockDraws (s : State) : (tickClock s).clockDraws = s.clockDraws := by unfold tickClock; split <;> rfl
@[simp] theorem tickClock_freeDraws (s : State) : (tickClock s).freeDraws = s.freeDraws := by unfold tickClock; split <;> rfl

/-! ### uCorrect -/

@[simp] theorem uCorrect_cfg (w : Tri (BitVec 14)) (s : State) : (uCorrect w s).cfg = s.cfg := by unfold uCorrect; split <;> rfl
@[simp] theorem uCorrect_initialized (w : Tri (BitVec 14)) (s : State) : (uCorrect w s).initialized = s.initialized := by unfold uCorrect; split <;> rfl
@[simp] theorem uCorrect_enable (w : Tri (BitVec 14)) (s : State) : (uCorrect w s).enable = s.enable := by unfold uCorrect; split <;> rfl
@[simp] theorem uCorrect_busOpen (w : Tri (BitVec 14)) (s : State) : (uCorrect w s).busOpen = s.busOpen := by unfold uCorrect; split <;> rfl
@[simp] theorem uCorrect_delay (w : Tri (BitVec 14)) (s : State) : (uCorrect w s).delay = s.delay := by unfold uCorrect; split <;> rfl
@[simp] theorem uCorrect_avg (w : Tri (BitVec 14)) (s : State) : (uCorrect w s).avg = s.avg := by unfold uCorrect; split <;> rfl
@[simp] theorem uCorrect_position (w : Tri (BitVec 14)) (s : State) : (uCorrect w s).position = s.position := by unfold uCorrect; split <;> rfl
@[simp] theorem uCorrect_mstate (w : Tri (BitVec 14)) (s : State) : (uCorrect w s).mstate = s.mstate := by unfold uCorrect; split <;> rfl
@[simp] theorem uCorrect_invalid (w : Tri (BitVec 14)) (s : State) : (uCorrect w s).invalid = s.invalid := by unfold uCorrect; split <;> rfl
@[simp] theorem uCorrect_onset (w : Tri (BitVec 14)) (s : State) : (uCorrect w s).onset = s.onset := by unfold uCorrect; split <;> rfl
@[simp] theorem uCorrect_lclk (w : Tri (BitVec 14)) (s : State) : (uCorrect w s).lclk = s.lclk := by unfold uCorrect; split <;> rfl
@[simp] theorem uCorrect_model (w : Tri (BitVec 14)) (s : State) : (uCorrect w s).model = s.model := by unfold uCorrect; split <;> rfl
@[simp] theorem uCorrect_hwoff (w : Tri (BitVec 14)) (s : State) : (uCorrect w s).hwoff = s.hwoff := by unfold uCorrect; split <;> rfl
@[simp] theorem uCorrect_lastRaw (w : Tri (BitVec 14)) (s : State) : (uCorrect w s).lastRaw = s.lastRaw := by unfold uCorrect; split <;> rfl
@[simp] theorem uCorrect_lastRawT (w : Tri (BitVec 14)) (s : State) : (uCorrect w s).lastRawT = s.lastRawT := by unfold uCorrect; split <;> rfl
@[simp] theorem uCorrect_base (w : Tri (BitVec 14)) (s : State) : (uCorrect w s).base = s.base := by unfold uCorrect; split <;> rfl
@[simp] theorem uCorrect_raw (w : Tri (BitVec 14)) (s : State) : (uCorrect w s).raw = s.raw := by unfold uCorrect; split <;> rfl
@[simp] theorem uCorrect_ovf (w : Tri (BitVec 14)) (s : State) : (uCorrect w s).ovf = s.ovf := by unfold uCorrect; split <;> rfl
@[simp] theorem uCorrect_p (w : Tri (BitVec 14)) (s : State) : (uCorrect w s).p = s.p := by unfold uCorrect; split <;> rfl
@[simp] theorem uCorrect_v (w : Tri (BitVec 14)) (s : State) : (uCorrect w s).v = s.v := by unfold uCorrect; split <;> rfl
@[simp] theorem uCorrect_q (w : Tri (BitVec 14)) (s : State) : (uCorrect w s).q = s.q := by unfold uCorrect; split <;> rfl
@[simp] theorem uCorrect_port (w : Tri (BitVec 14)) (s : State) : (uCorrect w s).port = s.port := by unfold uCorrect; split <;> rfl
@[simp] theorem uCorrect_response (w : Tri (BitVec 14)) (s : State) : (uCorrect w s).response = s.response := by unfold uCorrect; split <;> rfl
@[simp] theorem uCorrect_trace (w : Tri (BitVec 14)) (s : State) : (uCorrect w s).trace = s.trace := by unfold uCorrect; split <;> rfl
@[simp] theorem uCorrect_busScript (w : Tri (BitVec 14)) (s : State) : (uCorrect w s).busScript = s.busScript := by unfold uCorrect; split <;> rfl
@[simp] theorem uCorrect_busDraws (w : Tri (BitVec 14)) (s : State) : (uCorrect w s).busDraws = s.busDraws := by unfold uCorrect; split <;> rfl
@[simp] theorem uCorrect_clockScript (w : Tri (BitVec 14)) (s : State) : (uCorrect w s).clockScript = s.clockScript := by unfold uCorrect; split <;> rfl
@[simp] theorem uCorrect_clockDraws (w : Tri (BitVec 14)) (s : State) : (uCorrect w s).clockDraws = s.clockDraws := by unfold uCorrect; split <;> rfl
@[simp] theorem uCorrect_freeDraws (w : Tri (BitVec 14)) (s : State) : (uCorrect w s).freeDraws = s.freeDraws := by unfold uCorrect; split <;> rfl

/-! ### uLinearAcc -/

@[simp] theorem uLinearAcc_cfg (d : Tri Int) (s : State) : (uLinearAcc d s).cfg = s.cfg := by unfold uLinearAcc; split <;> rfl
@[simp] theorem uLinearAcc_initialized (d : Tri Int) (s : State) : (uLinearAcc d s).initialized = s.initialized := by unfold uLinearAcc; split <;> rfl
@[simp] theorem uLinearAcc_enable (d : Tri Int) (s : State) : (uLinearAcc d s).enable = s.enable := by unfold uLinearAcc; split <;> rfl
@[simp] theorem uLinearAcc_busOpen (d : Tri Int) (s : State) : (uLinearAcc d s).busOpen = s.busOpen := by unfold uLinearAcc; split <;> rfl
@[simp] theorem uLinearAcc_delay (d : Tri Int) (s : State) : (uLinearAcc d s).delay = s.delay := by unfold uLinearAcc; split <;> rfl
@[simp] theorem uLinearAcc_avg (d : Tri Int) (s : State) : (uLinearAcc d s).avg = s.avg := by unfold uLinearAcc; split <;> rfl
@[simp] theorem uLinearAcc_position (d : Tri Int) (s : State) : (uLinearAcc d s).position = s.position := by unfold uLinearAcc; split <;> rfl
@[simp] theorem uLinearAcc_mstate (d : Tri Int) (s : State) : (uLinearAcc d s).mstate = s.mstate := by unfold uLinearAcc; split <;> rfl
@[simp] theorem uLinearAcc_invalid (d : Tri Int) (s : State) : (uLinearAcc d s).invalid = s.invalid := by unfold uLinearAcc; split <;> rfl
@[simp] theorem uLinearAcc_onset (d : Tri Int) (s : State) : (uLinearAcc d s).onset = s.onset := by unfold uLinearAcc; split <;> rfl
@[simp] theorem uLinearAcc_lclk (d : Tri Int) (s : State) : (uLinearAcc d s).lclk = s.lclk := by unfold uLinearAcc; split <;> rfl
@[simp] theorem uLinearAcc_model (d : Tri Int) (s : State) : (uLinearAcc d s).model = s.model := by unfold uLinearAcc; split <;> rfl
@[simp] theorem uLinearAcc_hwoff (d : Tri Int) (s : State) : (uLinearAcc d s).hwoff = s.hwoff := by unfold uLinearAcc; split <;> rfl
@[simp] theorem uLinearAcc_lastRaw (d : Tri Int) (s : State) : (uLinearAcc d s).lastRaw = s.lastRaw := by unfold uLinearAcc; split <;> rfl
@[simp] theorem uLinearAcc_lastRawT (d : Tri Int) (s : State) : (uLinearAcc d s).lastRawT = s.lastRawT := by unfold uLinearAcc; split <;> rfl
@[simp] theorem uLinearAcc_base (d : Tri Int) (s : State) : (uLinearAcc d s).base = s.base := by unfold uLinearAcc; split <;> rfl
@[simp] theorem uLinearAcc_raw (d : Tri Int) (s : State) : (uLinearAcc d s).raw = s.raw := by unfold uLinearAcc; split <;> rfl
@[simp] theorem uLinearAcc_c (d : Tri Int) (s : State) : (uLinearAcc d s).c = s.c := by unfold uLinearAcc; split <;> rfl
@[simp] theorem uLinearAcc_ovf (d : Tri Int) (s : State) : (uLinearAcc d s).ovf = s.ovf := by unfold uLinearAcc; split <;> rfl
@[simp] theorem uLinearAcc_p (d : Tri Int) (s : State) : (uLinearAcc d s).p = s.p := by unfold uLinearAcc; split <;> rfl
@[simp] theorem uLinearAcc_v (d : Tri Int) (s : State) : (uLinearAcc d s).v = s.v := by unfold uLinearAcc; split <;> rfl
@[simp] theorem uLinearAcc_q (d : Tri Int) (s : State) : (uLinearAcc d s).q = s.q := by unfold uLinearAcc; split <;> rfl
@[simp] theorem uLinearAcc_port (d : Tri Int) (s : State) : (uLinearAcc d s).port = s.port := by unfold uLinearAcc; split <;> rfl
@[simp] theorem uLinearAcc_response (d : Tri Int) (s : State) : (uLinearAcc d s).response = s.response := by unfold uLinearAcc; split <;> rfl
@[simp] theorem uLinearAcc_trace (d : Tri Int) (s : State) : (uLinearAcc d s).trace = s.trace := by unfold uLinearAcc; split <;> rfl
@[simp] theorem uLinearAcc_busScript (d : Tri Int) (s : State) : (uLinearAcc d s).busScript = s.busScript := by unfold uLinearAcc; split <;> rfl
@[simp] theorem uLinearAcc_busDraws (d : Tri Int) (s : State) : (uLinearAcc d s).busDraws = s.busDraws := by unfold uLinearAcc; split <;> rfl
@[simp] theorem uLinearAcc_clockScript (d : Tri Int) (s : State) : (uLinearAcc d s).clockScript = s.clockScript := by unfold uLinearAcc; split <;> rfl
@[simp] theorem uLinearAcc_clockDraws (d : Tri Int) (s : State) : (uLinearAcc d s).clockDraws = s.clockDraws := by unfold uLinearAcc; split <;> rfl
@[simp] theorem uLinearAcc_freeDraws (d : Tri Int) (s : State) : (uLinearAcc d s).freeDraws = s.freeDraws := by unfold uLinearAcc; split <;> rfl

/-! ### uOrient -/

@[simp] theorem uOrient_cfg (s : State) : (uOrient s).cfg = s.cfg := by unfold uOrient; split <;> rfl
@[simp] theorem uOrient_initialized (s : State) : (uOrient s).initialized = s.initialized := by unfold uOrient; split <;> rfl
@[simp] theorem uOrient_enable (s : State) : (uOrient s).enable = s.enable := by unfold uOrient; split <;> rfl
@[simp] theorem uOrient_busOpen (s : State) : (uOrient s).busOpen = s.busOpen := by unfold uOrient; split <;> rfl
@[simp] theorem uOrient_delay (s : State) : (uOrient s).delay = s.delay := by unfold uOrient; split <;> rfl
@[simp] theorem uOrient_avg (s : State) : (uOrient s).avg = s.avg := by unfold uOrient; split <;> rfl
@[simp] theorem uOrient_position (s : State) : (uOrient s).position = s.position := by unfold uOrient; split <;> rfl
@[simp] theorem uOrient_mstate (s : State) : (uOrient s).mstate = s.mstate := by unfold uOrient; split <;> rfl
@[simp] theorem uOrient_invalid (s : State) : (uOrient s).invalid = s.invalid := by unfold uOrient; split <;> rfl
@[simp] theorem uOrient_onset (s : State) : (uOrient s).onset = s.onset := by unfold uOrient; split <;> rfl
@[simp] theorem uOrient_lclk (s : State) : (uOrient s).lclk = s.lclk := by unfold uOrient; split <;> rfl
@[simp] theorem uOrient_model (s : State) : (uOrient s).model = s.model := by unfold uOrient; split <;> rfl
@[simp] theorem uOrient_hwoff (s : State) : (uOrient s).hwoff = s.hwoff := by unfold uOrient; split <;> rfl
@[simp] theorem uOrient_lastRaw (s : State) : (uOrient s).lastRaw = s.lastRaw := by unfold uOrient; split <;> rfl
@[simp] theorem uOrient_lastRawT (s : State) : (uOrient s).lastRawT = s.lastRawT := by unfold uOrient; split <;> rfl
@[simp] theorem uOrient_base (s : State) : (uOrient s).base = s.base := by unfold uOrient; split <;> rfl
@[simp] theorem uOrient_raw (s : State) : (uOrient s).raw = s.raw := by unfold uOrient; split <;> rfl
@[simp] theorem uOrient_c (s : State) : (uOrient s).c = s.c := by unfold uOrient; split <;> rfl
@[simp] theorem uOrient_ovf (s : State) : (uOrient s).ovf = s.ovf := by unfold uOrient; split <;> rfl
@[simp] theorem uOrient_p (s : State) : (uOrient s).p = s.p := by unfold uOrient; split <;> rfl
@[simp] theorem uOrient_q (s : State) : (uOrient s).q = s.q := by unfold uOrient; split <;> rfl
@[simp] theorem uOrient_acc (s : State) : (uOrient s).acc = s.acc := by unfold uOrient; split <;> rfl
@[simp] theorem uOrient_port (s : State) : (uOrient s).port = s.port := by unfold uOrient; split <;> rfl
@[simp] theorem uOrient_response (s : State) : (uOrient s).response = s.response := by unfold uOrient; split <;> rfl
@[simp] theorem uOrient_trace (s : State) : (uOrient s).trace = s.trace := by unfold uOrient; split <;> rfl
@[simp] theorem uOrient_busScript (s : State) : (uOrient s).busScript = s.busScript := by unfold uOrient; split <;> rfl
@[simp] theorem uOrient_busDraws (s : State) : (uOrient s).busDraws = s.busDraws := by unfold uOrient; split <;> rfl
@[simp] theorem uOrient_clockScript (s : State) : (uOrient s).clockScript = s.clockScript := by unfold uOrient; split <;> rfl
@[simp] theorem uOrient_clockDraws (s : State) : (uOrient s).clockDraws = s.clockDraws := by unfold uOrient; split <;> rfl
@[simp] theorem uOrient_freeDraws (s : State) : (uOrient s).freeDraws = s.freeDraws := by unfold uOrient; split <;> rfl

/-! ### fsmNormal -/

@[simp] theorem fsmNormal_cfg (now : Word) (s : State) : (fsmNormal now s).cfg = s.cfg := by unfold fsmNormal; split <;> rfl
@[simp] theorem fsmNormal_initialized (now : Word) (s : State) : (fsmNormal now s).initialized = s.initialized := by unfold fsmNormal; split <;> rfl
@[simp] theorem fsmNormal_enable (now : Word) (s : State) : (fsmNormal now s).enable = s.enable := by unfold fsmNormal; split <;> rfl
@[simp] theorem fsmNormal_busOpen (now : Word) (s : State) : (fsmNormal now s).busOpen = s.busOpen := by unfold fsmNormal; split <;> rfl
@[simp] theorem fsmNormal_delay (now : Word) (s : State) : (fsmNormal now s).delay = s.delay := by unfold fsmNormal; split <;> rfl
@[simp] theorem fsmNormal_avg (now : Word) (s : State) : (fsmNormal now s).avg = s.avg := by unfold fsmNormal; split <;> rfl
@[simp] theorem fsmNormal_position (now : Word) (s : State) : (fsmNormal now s).position = s.position := by unfold fsmNormal; split <;> rfl
@[simp] theorem fsmNormal_mstate (now : Word) (s : State) : (fsmNormal now s).mstate = if anomaly s then mInitCoil else s.mstate := by
  unfold fsmNormal; split <;> simp_all
@[simp] theorem fsmNormal_invalid (now : Word) (s : State) : (fsmNormal now s).invalid = anomaly s := by
  unfold fsmNormal; split <;> simp_all
@[simp] theorem fsmNormal_onset (now : Word) (s : State) : (fsmNormal now s).onset = if anomaly s && !s.invalid then now else s.onset := by
  unfold fsmNormal; split <;> cases h : s.invalid <;> simp_all
@[simp] theorem fsmNormal_lclk (now : Word) (s : State) : (fsmNormal now s).lclk = s.lclk := by unfold fsmNormal; split <;> rfl
@[simp] theorem fsmNormal_model (now : Word) (s : State) : (fsmNormal now s).model = s.model := by unfold fsmNormal; split <;> rfl
@[simp] theorem fsmNormal_hwoff (now : Word) (s : State) : (fsmNormal now s).hwoff = s.hwoff := by unfold fsmNormal; split <;> rfl
@[simp] theorem fsmNormal_lastRaw (now : Word) (s : State) : (fsmNormal now s).lastRaw = s.lastRaw := by unfold fsmNormal; split <;> rfl
@[simp] theorem fsmNormal_lastRawT (now : Word) (s : State) : (fsmNormal now s).lastRawT = s.lastRawT := by unfold fsmNormal; split <;> rfl
@[simp] theorem fsmNormal_base (now : Word) (s : State) : (fsmNormal now s).base = s.base := by unfold fsmNormal; split <;> rfl
@[simp] theorem fsmNormal_raw (now : Word) (s : State) : (fsmNormal now s).raw = s.raw := by unfold fsmNormal; split <;> rfl
@[simp] theorem fsmNormal_c (now : Word) (s : State) : (fsmNormal now s).c = s.c := by unfold fsmNormal; split <;> rfl
@[simp] theorem fsmNormal_ovf (now : Word) (s : State) : (fsmNormal now s).ovf = s.ovf := by unfold fsmNormal; split <;> rfl
@[simp] theorem fsmNormal_p (now : Word) (s : State) : (fsmNormal now s).p = s.p := by unfold fsmNormal; split <;> rfl
@[simp] theorem fsmNormal_v (now : Word) (s : State) : (fsmNormal now s).v = s.v := by unfold fsmNormal; split <;> rfl
@[simp] theorem fsmNormal_q (now : Word) (s : State) : (fsmNormal now s).q = if anomaly s && s.ovf == 0#6 then addThree s.q else s.q := by
  unfold fsmNormal; split <;> by_cases h : s.ovf = 0#6 <;> simp_all
@[simp] theorem fsmNormal_acc (now : Word) (s : State) : (fsmNormal now s).acc = s.acc := by unfold fsmNormal; split <;> rfl
@[simp] theorem fsmNormal_port (now : Word) (s : State) : (fsmNormal now s).port = s.port := by unfold fsmNormal; split <;> rfl
@[simp] theorem fsmNormal_response (now : Word) (s : State) : (fsmNormal now s).response = s.response := by unfold fsmNormal; split <;> rfl
@[simp] theorem fsmNormal_trace (now : Word) (s : State) : (fsmNormal now s).trace = s.trace := by unfold fsmNormal; split <;> rfl
@[simp] theorem fsmNormal_busScript (now : Word) (s : State) : (fsmNormal now s).busScript = s.busScript := by unfold fsmNormal; split <;> rfl
@[simp] theorem fsmNormal_busDraws (now : Word) (s : State) : (fsmNormal now s).busDraws = s.busDraws := by unfold fsmNormal; split <;> rfl
@[simp] theorem fsmNormal_clockScript (now : Word) (s : State) : (fsmNormal now s).clockScript = s.clockScript := by unfold fsmNormal; split <;> rfl
@[simp] theorem fsmNormal_clockDraws (now : Word) (s : State) : (fsmNormal now s).clockDraws = s.clockDraws := by unfold fsmNormal; split <;> rfl
@[simp] theorem fsmNormal_freeDraws (now : Word) (s : State) : (fsmNormal now s).freeDraws = s.freeDraws := by unfold fsmNormal; split <;> rfl

end Sys2Proof.Machine
end

