-- ==== Sys2Proof/Laws/Ops.lean ====
section
/-! SUPPORT. What the shared operations can do, each said once: the answers to come, sequencing, the primitives, the end of a
command, and two ways to follow a procedure: `Res.Sat` (it ends without a fault) and `Proc.Stable` (it keeps a property). -/

namespace Sys2Proof.Machine

/-! ### The answers to come -/

/-- The answers depend on the script and the count of draws alone. -/
theorem busOkAt_congr {s t : State} (h1 : s.busScript = t.busScript) (h2 : s.busDraws = t.busDraws) (k : Nat) :
    busOkAt s k = busOkAt t k := by simp only [busOkAt, h1, h2]

theorem busByteAt_congr {s t : State} (h1 : s.busScript = t.busScript) (h2 : s.busDraws = t.busDraws) (k i : Nat) :
    busByteAt s k i = busByteAt t k i := by simp only [busByteAt, h1, h2]

theorem readData_congr {s t : State} (h1 : s.busScript = t.busScript) (h2 : s.busDraws = t.busDraws) (n : Nat) :
    readData s n = readData t n := funext fun i => busByteAt_congr h1 h2 0 i.val

theorem clockAt_congr {s t : State} (h1 : s.clockScript = t.clockScript) (h2 : s.clockDraws = t.clockDraws) (k : Nat) :
    clockAt s k = clockAt t k := by simp only [clockAt, h1, h2]

@[simp] theorem busOkAt_advance (s : State) (n k : Nat) (evs : List Event) :
    busOkAt (advance s n evs) k = busOkAt s (n + k) := by
  simp only [busOkAt, advance_busScript, advance_busDraws, List.getElem?_drop, Nat.add_assoc]

@[simp] theorem busByteAt_advance (s : State) (n k i : Nat) (evs : List Event) :
    busByteAt (advance s n evs) k i = busByteAt s (n + k) i := by
  simp only [busByteAt, advance_busScript, advance_busDraws, List.getElem?_drop, Nat.add_assoc]

theorem readData_eq_blockAt (s : State) : readData s 17 = blockAt s 0 := rfl

theorem readData_eq_sampleAt (s : State) : readData s 8 = sampleAt s 0 := rfl

@[simp] theorem blockAt_advance (s : State) (n k : Nat) (evs : List Event) :
    blockAt (advance s n evs) k = blockAt s (n + k) := funext fun i => busByteAt_advance s n k i.val evs

@[simp] theorem sampleAt_advance (s : State) (n k : Nat) (evs : List Event) :
    sampleAt (advance s n evs) k = sampleAt s (n + k) := funext fun i => busByteAt_advance s n k i.val evs

@[simp] theorem advance_advance (s : State) (n m : Nat) (e f : List Event) :
    advance (advance s n e) m f = advance s (n + m) (e ++ f) := by
  simp only [advance, List.drop_drop, List.append_assoc, Nat.add_assoc]

@[simp] theorem advance_zero (s : State) : advance s 0 [] = s := by
  cases s; simp [advance]

/-! ### Sequencing -/

@[simp] theorem Proc.pure_apply {α : Type} (a : α) (s : State) : Proc.pure a s = .ok a s := rfl
@[simp] theorem Proc.modify_apply (f : State → State) (s : State) : Proc.modify f s = .ok () (f s) := rfl
@[simp] theorem raise_apply {α : Type} (e : ErrKind) (s : State) : (raise e : Proc α) s = .err e s := rfl

theorem Proc.bind_ok {α β : Type} {p : Proc α} {f : α → Proc β} {s t : State} {a : α} (h : p s = .ok a t) :
    p.bind f s = f a t := by simp only [Proc.bind, h]

theorem Proc.bind_err {α β : Type} {p : Proc α} {f : α → Proc β} {s t : State} {e : ErrKind} (h : p s = .err e t) :
    p.bind f s = .err e t := by simp only [Proc.bind, h]

theorem Proc.andThen_ok {β : Type} {p : Proc Unit} {q : Proc β} {s t : State} {u : Unit} (h : p s = .ok u t) :
    p.andThen q s = q t := Proc.bind_ok h

theorem Proc.andThen_err {β : Type} {p : Proc Unit} {q : Proc β} {s t : State} {e : ErrKind} (h : p s = .err e t) :
    p.andThen q s = .err e t := Proc.bind_err h

theorem Proc.attempt_ok {α : Type} {p : Proc α} {s t : State} {a : α} (h : p s = .ok a t) :
    p.attempt s = .ok (.ok a) t := by simp only [Proc.attempt, h]

theorem Proc.attempt_err {α : Type} {p : Proc α} {s t : State} {e : ErrKind} (h : p s = .err e t) :
    p.attempt s = .ok (.error e) t := by simp only [Proc.attempt, h]

theorem Proc.ignore_ok {α : Type} {p : Proc α} {s t : State} {a : α} (h : p s = .ok a t) :
    p.ignore s = .ok () t := Proc.bind_ok (Proc.attempt_ok h)

theorem Proc.ignore_err {α : Type} {p : Proc α} {s t : State} {e : ErrKind} (h : p s = .err e t) :
    p.ignore s = .ok () t := Proc.bind_ok (Proc.attempt_err h)

/-- A body that ends, with a cleanup that ends: the cleanup's state, the body's result (R239). -/
theorem Proc.withCleanup_ok {α : Type} {b : Proc α} {c : Proc Unit} {s t u : State} {a : α} (hb : b s = .ok a t)
    (hc : c.ignore t = .ok () u) : b.withCleanup c s = .ok a u := by
  unfold Proc.withCleanup
  rw [Proc.bind_ok (Proc.attempt_ok hb), Proc.bind_ok hc]; rfl

/-- A body that raises, with a cleanup that ends: the cleanup's state, the body's error (R239). -/
theorem Proc.withCleanup_err {α : Type} {b : Proc α} {c : Proc Unit} {s t u : State} {e : ErrKind} (hb : b s = .err e t)
    (hc : c.ignore t = .ok () u) : b.withCleanup c s = .err e u := by
  unfold Proc.withCleanup
  rw [Proc.bind_ok (Proc.attempt_err hb), Proc.bind_ok hc]; rfl

/-! ### The primitives, by the environment's answer -/

theorem primBusOpen_ok {s : State} (hb : s.busOpen = false) (h : busOkAt s 0 = true) :
    primBusOpen s = .ok () { advance s 1 [.opened true] with busOpen := true } := by
  simp [primBusOpen, openEffect, hb, h]

theorem primBusOpen_err {s : State} (hb : s.busOpen = false) (h : busOkAt s 0 = false) :
    primBusOpen s = .err .deviceCommunication (advance s 1 [.opened false]) := by
  have : (advance s 1 [.opened false]).busOpen = false := hb
  simp [primBusOpen, openEffect, hb, h]
  cases s; simp_all [advance]

theorem primBusClose_ok {s : State} (hb : s.busOpen = true) (h : busOkAt s 0 = true) :
    primBusClose s = .ok () { advance s 1 [.closed true] with busOpen := false } := by
  simp [primBusClose, closeEffect, hb, h]

theorem primBusClose_err {s : State} (hb : s.busOpen = true) (h : busOkAt s 0 = false) :
    primBusClose s = .err .deviceCommunication { advance s 1 [.closed false] with busOpen := false } := by
  simp [primBusClose, closeEffect, hb, h]

theorem primMemRead_ok {s : State} {a : Byte} {n : Nat} (hb : s.busOpen = true) (h : busOkAt s 0 = true) :
    primMemRead a n s = .ok (readData s n) (advance s 1 [.read a n (some (List.ofFn (readData s n)))]) := by
  simp [primMemRead, readEffect, hb, h]

theorem primMemRead_err {s : State} {a : Byte} {n : Nat} (hb : s.busOpen = true) (h : busOkAt s 0 = false) :
    primMemRead a n s = .err .deviceCommunication (advance s 1 [.read a n none]) := by
  simp [primMemRead, readEffect, hb, h]

theorem primMemWrite_ok {s : State} {a v : Byte} (hb : s.busOpen = true) (h : busOkAt s 0 = true) :
    primMemWrite a v s = .ok () (advance s 1 [.wrote a v true]) := by
  simp [primMemWrite, writeEffect, hb, h]

theorem primMemWrite_err {s : State} {a v : Byte} (hb : s.busOpen = true) (h : busOkAt s 0 = false) :
    primMemWrite a v s = .err .deviceCommunication (advance s 1 [.wrote a v false]) := by
  simp [primMemWrite, writeEffect, hb, h]

@[simp] theorem primSleep_apply (us : Nat) (s : State) : primSleep us s = .ok () (advance s 0 [.slept us]) := rfl

/-! ### Fewer answers from a later state -/

theorem AnswersOk.first {s : State} {n : Nat} (h : AnswersOk s (n + 1)) : busOkAt s 0 = true := h 0 (Nat.succ_pos n)

theorem AnswersOk.le {s : State} {n m : Nat} (h : AnswersOk s n) (hm : m ≤ n) : AnswersOk s m :=
  fun k hk => h k (Nat.lt_of_lt_of_le hk hm)

theorem AnswersOk.after {s : State} {n m : Nat} (h : AnswersOk s (n + m)) (evs : List Event) :
    AnswersOk (advance s n evs) m := fun k hk => by
  rw [busOkAt_advance]; exact h (n + k) (Nat.add_lt_add_left hk n)

theorem AnswersOk.congr {s t : State} {n : Nat} (h : AnswersOk s n) (h1 : s.busScript = t.busScript)
    (h2 : s.busDraws = t.busDraws) : AnswersOk t n := fun k hk => by
  rw [← busOkAt_congr h1 h2]; exact h k hk

/-! ### A list of writes -/

theorem writeAll_ok {ws : List (Byte × Byte)} {s : State} (hb : s.busOpen = true) (h : AnswersOk s ws.length) :
    writeAll ws s = .ok () (advance s ws.length (writeEvents ws)) := by
  induction ws generalizing s with
  | nil => simp [writeAll, writeEvents]
  | cons w ws ih =>
    rw [writeAll, Proc.andThen_ok (primMemWrite_ok hb h.first),
      ih (s := advance s 1 [.wrote w.1 w.2 true]) hb (AnswersOk.after (n := 1) (h.le (by simp [Nat.add_comm])) _)]
    simp [writeEvents, Nat.add_comm]

/-- A list of writes of which one fails: it is the last one issued (40_calibration_decoder.md R98). -/
theorem writeAll_err {ws : List (Byte × Byte)} {s : State} {k : Nat} (hk : k < ws.length) (hb : s.busOpen = true)
    (h : AnswersOk s k) (hf : busOkAt s k = false) :
    writeAll ws s = .err .deviceCommunication
      (advance s (k + 1) (writeEvents (ws.take k) ++ [.wrote ws[k].1 ws[k].2 false])) := by
  induction ws generalizing s k with
  | nil => cases hk
  | cons w ws ih =>
    rw [writeAll]
    cases k with
    | zero => rw [Proc.andThen_err (primMemWrite_err hb hf)]; rfl
    | succ k =>
      rw [Proc.andThen_ok (primMemWrite_ok hb (h 0 (by omega))),
        ih (s := advance s 1 [.wrote w.1 w.2 true]) (Nat.lt_of_succ_lt_succ hk) hb
          (AnswersOk.after (n := 1) (h.le (by omega)) _) (by rw [busOkAt_advance, Nat.add_comm]; exact hf), advance_advance]
      simp [writeEvents, Nat.add_comm]

/-! ### Ending without a fault -/

/-- The procedure ended: with a result and a state that meet `Q`, or with an error and a state that meet `E`. -/
def Res.Sat {α : Type} (Q : α → State → Prop) (E : ErrKind → State → Prop) : Res α → Prop
  | .ok a s => Q a s
  | .err e s => E e s
  | .fault _ => False

theorem Res.Sat.mono {α : Type} {Q Q' : α → State → Prop} {E E' : ErrKind → State → Prop} {r : Res α} (h : r.Sat Q E)
    (hQ : ∀ a t, Q a t → Q' a t) (hE : ∀ e t, E e t → E' e t) : r.Sat Q' E' := by
  cases r with
  | ok a t => exact hQ a t h
  | err e t => exact hE e t h
  | fault f => exact h

theorem Proc.bind_sat {α β : Type} {p : Proc α} {f : α → Proc β} {s : State} {Q : α → State → Prop}
    {R : β → State → Prop} {E : ErrKind → State → Prop} (hp : (p s).Sat Q E) (hf : ∀ a t, Q a t → (f a t).Sat R E) :
    (p.bind f s).Sat R E := by
  unfold Proc.bind
  cases h : p s with
  | ok a t => rw [h] at hp; exact hf a t hp
  | err e t => rw [h] at hp; exact hp
  | fault x => rw [h] at hp; exact hp.elim

theorem Proc.andThen_sat {β : Type} {p : Proc Unit} {q : Proc β} {s : State} {Q : State → Prop}
    {R : β → State → Prop} {E : ErrKind → State → Prop} (hp : (p s).Sat (fun _ => Q) E) (hq : ∀ t, Q t → (q t).Sat R E) :
    (p.andThen q s).Sat R E := Proc.bind_sat hp fun _ t h => hq t h

theorem Proc.attempt_sat {α : Type} {p : Proc α} {s : State} {R : Except ErrKind α → State → Prop}
    {E : ErrKind → State → Prop} (hp : (p s).Sat (fun a => R (.ok a)) (fun e => R (.error e))) :
    (p.attempt s).Sat R E := by
  unfold Proc.attempt
  cases h : p s with
  | ok a t => rw [h] at hp; exact hp
  | err e t => rw [h] at hp; exact hp
  | fault x => rw [h] at hp; exact hp.elim

theorem Proc.ignore_sat {α : Type} {p : Proc α} {s : State} {R : State → Prop} {E : ErrKind → State → Prop}
    (hp : (p s).Sat (fun _ => R) (fun _ => R)) : (p.ignore s).Sat (fun _ => R) E :=
  Proc.bind_sat (Q := fun _ => R) (Proc.attempt_sat hp) fun _ _ h => h

theorem Proc.withCleanup_sat {α : Type} {b : Proc α} {c : Proc Unit} {s : State} {Q' Q : α → State → Prop}
    {E' E : ErrKind → State → Prop} (hb : (b s).Sat Q' E')
    (hQ : ∀ a t, Q' a t → (c t).Sat (fun _ => Q a) (fun _ => Q a))
    (hE : ∀ e t, E' e t → (c t).Sat (fun _ => E e) (fun _ => E e)) : (b.withCleanup c s).Sat Q E := by
  unfold Proc.withCleanup
  refine Proc.bind_sat (Q := fun r t => match r with | .ok a => Q' a t | .error e => E' e t) (Proc.attempt_sat hb) ?_
  intro r t hr
  cases r with
  | ok a => exact Proc.bind_sat (Proc.ignore_sat (hQ a t hr)) fun _ _ h => h
  | error e => exact Proc.bind_sat (Proc.ignore_sat (hE e t hr)) fun _ _ h => h

theorem primBusOpen_sat {s : State} {Q : State → Prop} {E : ErrKind → State → Prop} (hb : s.busOpen = false)
    (hQ : Q { advance s 1 [.opened true] with busOpen := true })
    (hE : E .deviceCommunication (advance s 1 [.opened false])) : (primBusOpen s).Sat (fun _ => Q) E := by
  cases h : busOkAt s 0 with
  | true => rw [primBusOpen_ok hb h]; exact hQ
  | false => rw [primBusOpen_err hb h]; exact hE

theorem primBusClose_sat {s : State} {Q : State → Prop} {E : ErrKind → State → Prop} (hb : s.busOpen = true)
    (hQ : ∀ b, Q { advance s 1 [.closed b] with busOpen := false })
    (hE : ∀ b, E .deviceCommunication { advance s 1 [.closed b] with busOpen := false }) :
    (primBusClose s).Sat (fun _ => Q) E := by
  cases h : busOkAt s 0 with
  | true => rw [primBusClose_ok hb h]; exact hQ true
  | false => rw [primBusClose_err hb h]; exact hE false

theorem primMemRead_sat {s : State} {a : Byte} {n : Nat} {Q : (Fin n → Byte) → State → Prop} {E : ErrKind → State → Prop}
    (hb : s.busOpen = true) (hQ : ∀ evs, Q (readData s n) (advance s 1 evs))
    (hE : ∀ evs, E .deviceCommunication (advance s 1 evs)) : (primMemRead a n s).Sat Q E := by
  cases h : busOkAt s 0 with
  | true => rw [primMemRead_ok hb h]; exact hQ _
  | false => rw [primMemRead_err hb h]; exact hE _

theorem primMemWrite_sat {s : State} {a v : Byte} {Q : State → Prop} {E : ErrKind → State → Prop} (hb : s.busOpen = true)
    (hQ : ∀ evs, Q (advance s 1 evs)) (hE : ∀ evs, E .deviceCommunication (advance s 1 evs)) :
    (primMemWrite a v s).Sat (fun _ => Q) E := by
  cases h : busOkAt s 0 with
  | true => rw [primMemWrite_ok hb h]; exact hQ _
  | false => rw [primMemWrite_err hb h]; exact hE _

theorem writeAll_sat {ws : List (Byte × Byte)} {s : State} {Q : State → Prop} {E : ErrKind → State → Prop}
    (hb : s.busOpen = true) (hQ : ∀ n evs, Q (advance s n evs)) (hE : ∀ n evs, E .deviceCommunication (advance s n evs)) :
    (writeAll ws s).Sat (fun _ => Q) E := by
  induction ws generalizing s with
  | nil => rw [writeAll]; have := hQ 0 []; rwa [advance_zero] at this
  | cons w ws ih =>
    rw [writeAll]
    refine Proc.andThen_sat (Q := fun t => ∃ evs, t = advance s 1 evs)
      (primMemWrite_sat hb (fun evs => ⟨evs, rfl⟩) (fun evs => hE 1 evs)) ?_
    rintro t ⟨evs, rfl⟩
    exact ih hb (fun n e => by rw [advance_advance]; exact hQ _ _) (fun n e => by rw [advance_advance]; exact hE _ _)

/-! ### Leaving a property alone -/

/-- From a state with `I`, wherever the procedure ends without a fault, `I` holds again. -/
def Proc.Stable {α : Type} (I : State → Prop) (p : Proc α) : Prop :=
  ∀ s t, I s → (∀ a, p s = .ok a t → I t) ∧ (∀ e, p s = .err e t → I t)

theorem Proc.Stable.ok {α : Type} {I : State → Prop} {p : Proc α} (h : Proc.Stable I p) {s t : State} {a : α}
    (hp : p s = .ok a t) (hs : I s) : I t := (h s t hs).1 a hp

theorem Proc.Stable.err {α : Type} {I : State → Prop} {p : Proc α} (h : Proc.Stable I p) {s t : State} {e : ErrKind}
    (hp : p s = .err e t) (hs : I s) : I t := (h s t hs).2 e hp

theorem Proc.pure_stable {α : Type} (I : State → Prop) (a : α) : Proc.Stable I (Proc.pure a) := by
  intro s t hs; constructor <;> intro _ h <;> cases h; exact hs

theorem raise_stable {α : Type} (I : State → Prop) (e : ErrKind) : Proc.Stable I (raise e : Proc α) := by
  intro s t hs; constructor <;> intro _ h <;> cases h; exact hs

theorem Proc.modify_stable {I : State → Prop} {g : State → State} (h : ∀ s, I s → I (g s)) :
    Proc.Stable I (Proc.modify g) := by
  intro s t hs; constructor <;> intro _ hp <;> cases hp; exact h s hs

theorem Proc.bind_stable {α γ : Type} {I : State → Prop} {p : Proc α} {q : α → Proc γ} (hp : Proc.Stable I p)
    (hq : ∀ a, Proc.Stable I (q a)) : Proc.Stable I (p.bind q) := by
  intro s t hs
  unfold Proc.bind
  cases h : p s with
  | ok a u => exact ⟨fun b hb => (hq a).ok hb (hp.ok h hs), fun e he => (hq a).err he (hp.ok h hs)⟩
  | err e u => exact ⟨fun b hb => (by cases hb), fun e' he => (by cases he; exact hp.err h hs)⟩
  | fault x => exact ⟨fun b hb => (by cases hb), fun e he => (by cases he)⟩

theorem Proc.andThen_stable {γ : Type} {I : State → Prop} {p : Proc Unit} {q : Proc γ} (hp : Proc.Stable I p)
    (hq : Proc.Stable I q) : Proc.Stable I (p.andThen q) := Proc.bind_stable hp fun _ => hq

theorem Proc.attempt_stable {α : Type} {I : State → Prop} {p : Proc α} (hp : Proc.Stable I p) :
    Proc.Stable I p.attempt := by
  intro s t hs
  unfold Proc.attempt
  cases h : p s with
  | ok a u => exact ⟨fun b hb => (by cases hb; exact hp.ok h hs), fun e he => (by cases he)⟩
  | err e u => exact ⟨fun b hb => (by cases hb; exact hp.err h hs), fun e' he => (by cases he)⟩
  | fault x => exact ⟨fun b hb => (by cases hb), fun e he => (by cases he)⟩

theorem Proc.ignore_stable {α : Type} {I : State → Prop} {p : Proc α} (hp : Proc.Stable I p) : Proc.Stable I p.ignore :=
  Proc.bind_stable (Proc.attempt_stable hp) fun _ => Proc.pure_stable I ()

theorem Proc.withCleanup_stable {α : Type} {I : State → Prop} {b : Proc α} {c : Proc Unit} (hb : Proc.Stable I b)
    (hc : Proc.Stable I c) : Proc.Stable I (b.withCleanup c) :=
  Proc.bind_stable (Proc.attempt_stable hb) fun r => Proc.bind_stable (Proc.ignore_stable hc) fun _ => by
    cases r with
    | ok a => exact Proc.pure_stable I a
    | error e => exact raise_stable I e

theorem reraise_stable {α : Type} (I : State → Prop) (r : Except ErrKind α) : Proc.Stable I (reraise r) := by
  cases r with
  | ok a => exact Proc.pure_stable I ()
  | error e => exact raise_stable I e

/-- A procedure that reads the state first is stable if it is for every state with `I` it may have read. -/
theorem Proc.read_stable {α : Type} {I : State → Prop} {p : State → Proc α} (h : ∀ s, I s → Proc.Stable I (p s)) :
    Proc.Stable I (fun s => p s s) := fun s t hs => h s hs s t hs

theorem primBusOpen_stable {I : State → Prop} (h : ∀ s, I s → I (openEffect s)) : Proc.Stable I primBusOpen := by
  intro s t hs; unfold primBusOpen
  constructor <;> intro _ hp <;> split at hp <;> (try split at hp) <;> cases hp <;> exact h s hs

theorem primBusClose_stable {I : State → Prop} (h : ∀ s, I s → I (closeEffect s)) : Proc.Stable I primBusClose := by
  intro s t hs; unfold primBusClose
  constructor <;> intro _ hp <;> split at hp <;> (try split at hp) <;> cases hp <;> exact h s hs

theorem primMemRead_stable {I : State → Prop} (h : ∀ s n evs, I s → I (advance s n evs)) (a : Byte) (n : Nat) :
    Proc.Stable I (primMemRead a n) := by
  intro s t hs; unfold primMemRead
  constructor <;> intro _ hp <;> split at hp <;> (try split at hp) <;> cases hp <;> exact h s _ _ hs

theorem primMemWrite_stable {I : State → Prop} (h : ∀ s n evs, I s → I (advance s n evs)) (a v : Byte) :
    Proc.Stable I (primMemWrite a v) := by
  intro s t hs; unfold primMemWrite
  constructor <;> intro _ hp <;> split at hp <;> (try split at hp) <;> cases hp <;> exact h s _ _ hs

theorem writeAll_stable {I : State → Prop} (h : ∀ s n evs, I s → I (advance s n evs)) (ws : List (Byte × Byte)) :
    Proc.Stable I (writeAll ws) := by
  induction ws with
  | nil => exact Proc.pure_stable I ()
  | cons w ws ih => exact Proc.andThen_stable (primMemWrite_stable h w.1 w.2) ih

theorem primSleep_stable {I : State → Prop} (h : ∀ s n evs, I s → I (advance s n evs)) (us : Nat) :
    Proc.Stable I (primSleep us) := Proc.modify_stable fun s hs => h s _ _ hs

/-! ### The end of a command -/

@[simp] theorem finish_ok (r : Response) (s : State) : finish (.ok r s) = .next (deliver r s) := rfl
@[simp] theorem finish_err (e : ErrKind) (s : State) : finish (.err e s) = .next (respondError e s) := rfl
@[simp] theorem finish_fault (f : Fault) : finish (.fault f) = .fault f := rfl

/-- Every way a command ends in a next state: with its result, or with the error response. -/
theorem finish_next {r : Res Response} {t : State} (h : finish r = .next t) :
    (∃ a s, r = .ok a s ∧ t = deliver a s) ∨ (∃ e s, r = .err e s ∧ t = respondError e s) := by
  cases r with
  | ok a s => simp only [finish_ok, Host.Outcome.next.injEq] at h; exact .inl ⟨a, s, rfl, h.symm⟩
  | err e s => simp only [finish_err, Host.Outcome.next.injEq] at h; exact .inr ⟨e, s, rfl, h.symm⟩
  | fault f => simp at h

theorem guarded_initialized {p : Proc Response} {s : State} (h : s.initialized = true) : guarded p s = finish (p s) := by
  simp [guarded, h]

theorem guarded_uninitialized {p : Proc Response} {s : State} (h : s.initialized = false) :
    guarded p s = .next (respondError .notInitialized s) := by
  simp [guarded, h]

/-- A guarded command that answers a next state: the guard's error, or its procedure's end. -/
theorem guarded_next {p : Proc Response} {s t : State} (h : guarded p s = .next t) :
    (s.initialized = false ∧ t = respondError .notInitialized s) ∨
    (s.initialized = true ∧ ((∃ a u, p s = .ok a u ∧ t = deliver a u) ∨ (∃ e u, p s = .err e u ∧ t = respondError e u))) := by
  cases hi : s.initialized with
  | false =>
    rw [guarded_uninitialized hi] at h
    exact .inl ⟨rfl, (Host.Outcome.next.inj h).symm⟩
  | true =>
    rw [guarded_initialized hi] at h
    exact .inr ⟨rfl, finish_next h⟩

end Sys2Proof.Machine
end

