-- ==== Sys2Proof/Laws/Session.lean ====
section
/-! SUPPORT. What each shared procedure does when every transaction succeeds: the registers it writes, and around them the
answers it consumed and the interactions it recorded. The cleanups at the end are said for every answer. -/

namespace Sys2Proof.Machine

/-! ### Register writes and bus bookkeeping do not meet -/

theorem resetMeasurement_advance (s : State) (n : Nat) (e : List Event) :
    resetMeasurement (advance s n e) = advance (resetMeasurement s) n e := rfl

theorem Accepts.commit_advance {s t : State} {B : CalBlock} {ws : List (Byte × Byte)} {f : State → State}
    (h : Accepts s B ws f) (n : Nat) (e : List Event) : f (advance t n e) = advance (f t) n e := by
  cases h <;> rfl

theorem Accepts.commit_busOpen {s t : State} {B : CalBlock} {ws : List (Byte × Byte)} {f : State → State}
    (h : Accepts s B ws f) : (f t).busOpen = t.busOpen := by
  cases h <;> rfl

theorem Accepts.congr {s t : State} {B : CalBlock} {ws : List (Byte × Byte)} {f : State → State}
    (h : Accepts s B ws f) (hc : t.cfg = s.cfg) : Accepts t B ws f := by
  cases h with
  | v0 h1 h2 => rw [← hc]; exact .v0 h1 h2
  | v1 h1 h2 => rw [← hc]; exact .v1 h1 h2

theorem uOvf_advance (s : State) (n : Nat) (e : List Event) : uOvf (advance s n e) = advance (uOvf s) n e := rfl

theorem uCorrect_advance (w : Tri (BitVec 14)) (s : State) (n : Nat) (e : List Event) :
    uCorrect w (advance s n e) = advance (uCorrect w s) n e := by
  unfold uCorrect
  by_cases h : s.model.ver = 0#1
  · rw [if_pos h, if_pos (by exact h)]; rfl
  · rw [if_neg h, if_neg (by exact h)]; rfl

theorem captureSample_advance (D : Fin 8 → Byte) (s : State) (n : Nat) (e : List Event) :
    captureSample D (advance s n e) = advance (captureSample D s) n e := rfl

theorem sampled_advance (D : Fin 8 → Byte) (s : State) (n : Nat) (e : List Event) :
    sampled D (advance s n e) = advance (sampled D s) n e := by
  simp only [sampled, captureSample_advance, uCorrect_advance, uOvf_advance]

/-! ### The procedures -/

theorem uCaldec_ok {s : State} {B : CalBlock} {ws : List (Byte × Byte)} {f : State → State} (h : Accepts s B ws f)
    (hb : s.busOpen = true) (hk : AnswersOk s ws.length) :
    uCaldec B s = .ok () (advance (f s) ws.length (writeEvents ws)) := by
  rw [← h.commit_advance]
  cases h with
  | v0 h1 h2 => simp [uCaldec, h1, h2, Proc.andThen_ok (writeAll_ok hb hk)]
  | v1 h1 h2 => simp [uCaldec, h1, h2, Proc.andThen_ok (writeAll_ok hb hk)]

/-- A block that is all zero or of no version leaves everything alone (R91, R97). -/
theorem uCaldec_rejects {s : State} {B : CalBlock}
    (h : calNonzero B = false ∨ (verField B ≠ 0#8 ∧ verField B ≠ 1#8)) : uCaldec B s = .err .calibrationInvalid s := by
  cases hz : calNonzero B with
  | false => simp [uCaldec, hz]
  | true =>
    rcases h with h | ⟨h0, h1⟩
    · rw [hz] at h; cases h
    · simp [uCaldec, hz, h0, h1]

theorem pResetDecode_ok {s : State} {ws : List (Byte × Byte)} {f : State → State} (h : Accepts s (blockAt s 1) ws f)
    (hb : s.busOpen = true) (hk : AnswersOk s (ws.length + 4)) :
    pResetDecode s = .ok () (advance (resetMeasurement (f s)) (ws.length + 4) (resetDecodeEvents s (blockAt s 1) ws)) := by
  unfold pResetDecode
  rw [Proc.andThen_ok (primMemWrite_ok hb (hk 0 (by omega)))]
  rw [Proc.andThen_ok (primSleep_apply _ _), advance_advance]
  rw [Proc.bind_ok (primMemRead_ok (by exact hb) (by rw [busOkAt_advance]; exact hk 1 (by omega)))]
  rw [readData_eq_blockAt, advance_advance, blockAt_advance]
  simp only [Nat.add_zero, Nat.reduceAdd]
  have hk2 : ∀ evs, AnswersOk (advance s 2 evs) ws.length := fun evs => AnswersOk.after (hk.le (by omega)) evs
  rw [Proc.andThen_ok (uCaldec_ok (h.congr (by rfl)) (by exact hb) (hk2 _))]
  rw [h.commit_advance, advance_advance]
  have hbc : (f s).busOpen = true := by rw [h.commit_busOpen]; exact hb
  have hfo : ∀ k, busOkAt (f s) k = busOkAt s k := fun k => by
    cases h <;> rfl
  rw [Proc.andThen_ok (primMemWrite_ok (by exact hbc) (by rw [busOkAt_advance, hfo]; exact hk _ (by omega))), advance_advance]
  rw [Proc.andThen_ok (primMemWrite_ok (by exact hbc) (by rw [busOkAt_advance, hfo]; exact hk _ (by omega))), advance_advance]
  rw [Proc.modify_apply, resetMeasurement_advance]
  congr 1
  have e1 : 2 + ws.length + 1 + 1 = ws.length + 4 := by omega
  simp only [resetDecodeEvents, List.append_assoc, List.cons_append, List.nil_append, e1]

theorem pContStart_ok {s : State} (hb : s.busOpen = true) (hk : AnswersOk s 1) :
    pContStart s = .ok () (advance s 1 (contStartEvents s)) := by
  unfold pContStart
  rw [Proc.andThen_ok (primMemWrite_ok hb hk.first), primSleep_apply, advance_advance]
  rfl

/-- A successful P_ENABLE (R185). -/
theorem pEnable_ok {s : State} {ws : List (Byte × Byte)} {f : State → State} (h : Accepts s (blockAt s 2) ws f)
    (hb : s.busOpen = false) (hk : AnswersOk s (ws.length + 6)) :
    pEnable s = .ok () (advance { resetMeasurement (f s) with enable := true, busOpen := true } (ws.length + 6)
      (enableEvents s (blockAt s 2) ws)) := by
  have ho := primBusOpen_ok hb (hk 0 (by omega))
  unfold pEnable
  rw [Proc.andThen_ok ho]
  generalize hs1 : ({ advance s 1 [.opened true] with busOpen := true } : State) = s1
  have hbl : ∀ k, blockAt s1 k = blockAt s (1 + k) := fun k => by
    rw [← blockAt_advance s 1 k [.opened true], ← hs1]; rfl
  have hok : ∀ k, busOkAt s1 k = busOkAt s (1 + k) := fun k => by
    rw [← busOkAt_advance s 1 k [.opened true], ← hs1]; rfl
  have hb1 : s1.busOpen = true := by rw [← hs1]
  have hc : s1.cfg = s.cfg := by rw [← hs1]; rfl
  have hr := pResetDecode_ok (s := s1) (ws := ws) (f := f) (by rw [hbl]; exact h.congr hc) hb1
    (fun k hkk => by rw [hok]; exact hk _ (by omega))
  have hfo : ∀ k, busOkAt (resetMeasurement (f s1)) k = busOkAt s1 k := fun k => by cases h <;> rfl
  have hfb : (resetMeasurement (f s1)).busOpen = true := by
    rw [resetMeasurement_busOpen, h.commit_busOpen]; exact hb1
  have hcs := pContStart_ok (s := advance (resetMeasurement (f s1)) (ws.length + 4) (resetDecodeEvents s1 (blockAt s1 1) ws))
    (by exact hfb) (fun k hkk => by rw [busOkAt_advance, hfo, hok]; exact hk _ (by omega))
  rw [Proc.bind_ok (Proc.attempt_ok ((Proc.andThen_ok hr).trans hcs))]
  simp only [Proc.modify_apply, advance_advance]
  congr 1
  rw [hbl]
  subst hs1
  cases h <;>
    simp only [advance, resetMeasurement, commitV0, commitV1, enableEvents, resetDecodeEvents, contStartEvents,
      List.drop_drop, List.append_assoc, List.cons_append, List.nil_append] <;>
    congr 1

/-- A P_DISABLE both of whose transactions succeed (R186). -/
theorem pDisable_ok {s : State} (hb : s.busOpen = true) (hk : AnswersOk s 2) :
    pDisable s = .ok () (advance { s with enable := false, busOpen := false } 2 (disableEvents s)) := by
  unfold pDisable
  rw [Proc.bind_ok (Proc.attempt_ok (primMemWrite_ok hb (hk 0 (by omega))))]
  rw [Proc.bind_ok (Proc.attempt_ok (primBusClose_ok (by exact hb) (by rw [busOkAt_advance]; exact hk 1 (by omega))))]
  rw [Proc.andThen_ok (Proc.modify_apply _ _)]
  simp only [reraise, Proc.andThen, Proc.bind, Proc.pure_apply, advance_advance]
  rfl

/-- A successful P_SAMPLE (R196). -/
theorem pSample_ok {s : State} (hb : s.busOpen = true) (hk : busOkAt s 0 = true) :
    pSample s = .ok () (advance (sampled (sampleAt s 0) s) 1
      [.read s.cfg.dev.regData 8 (some (List.ofFn (sampleAt s 0)))]) := by
  unfold pSample
  rw [Proc.bind_ok (primMemRead_ok hb hk), readData_eq_sampleAt, Proc.modify_apply]
  exact congrArg (Res.ok ()) (sampled_advance _ _ _ _)

/-- A single shot whose transactions succeed: its sample captured, and judged by BUSY (R156). -/
theorem pSingleShot_eq {s : State} {ldtc fors : Bool} (hb : s.busOpen = true) (hk : AnswersOk s 2) :
    pSingleShot ldtc fors s = if (parseSample (sampleAt s 1)).busy
      then .err .busy (advance (sampled (sampleAt s 1) s) 2 (singleShotEvents s ldtc fors (sampleAt s 1)))
      else .ok () (advance (sampled (sampleAt s 1) s) 2 (singleShotEvents s ldtc fors (sampleAt s 1))) := by
  unfold pSingleShot
  rw [Proc.andThen_ok (primMemWrite_ok hb (hk 0 (by omega))), Proc.andThen_ok (primSleep_apply _ _), advance_advance]
  rw [Proc.andThen_ok (pSample_ok (by exact hb) (by rw [busOkAt_advance]; exact hk 1 (by omega)))]
  simp only [sampleAt_advance, sampled_advance, advance_advance]
  have : (sampled (sampleAt s 1) s).raw = parseSample (sampleAt s 1) := by
    simp only [sampled, uOvf_raw, uCorrect_raw, captureSample_raw]
  simp only [advance_raw, this]
  rfl

/-- A single shot whose sample is ready (R156). -/
theorem pSingleShot_ok {s : State} {ldtc fors : Bool} (hb : s.busOpen = true) (hk : AnswersOk s 2)
    (hr : (parseSample (sampleAt s 1)).busy = false) :
    pSingleShot ldtc fors s = .ok () (advance (sampled (sampleAt s 1) s) 2
      (singleShotEvents s ldtc fors (sampleAt s 1))) := by rw [pSingleShot_eq hb hk, hr]; rfl

/-- A single shot whose sample is busy (R156). -/
theorem pSingleShot_busy {s : State} {ldtc fors : Bool} (hb : s.busOpen = true) (hk : AnswersOk s 2)
    (hr : (parseSample (sampleAt s 1)).busy = true) :
    pSingleShot ldtc fors s = .err .busy (advance (sampled (sampleAt s 1) s) 2
      (singleShotEvents s ldtc fors (sampleAt s 1))) := by rw [pSingleShot_eq hb hk, hr]; rfl

/-! ### Cleanups, whatever the environment answers -/

/-- P_CONT_START with its error dropped: one transaction, the sleep only after a write that succeeds (R187). -/
theorem pContStart_ignore {s : State} (hb : s.busOpen = true) :
    pContStart.ignore s = .ok () (advance s 1 (restartEvents s (busOkAt s 0))) := by
  cases h : busOkAt s 0 with
  | true => exact Proc.ignore_ok (pContStart_ok hb fun k hk => by rw [Nat.lt_one_iff.mp hk]; exact h)
  | false => exact Proc.ignore_err (Proc.andThen_err (primMemWrite_err hb h))

/-- A bus write with its error dropped. -/
theorem primMemWrite_ignore {s : State} {a v : Byte} (hb : s.busOpen = true) :
    (primMemWrite a v).ignore s = .ok () (advance s 1 [.wrote a v (busOkAt s 0)]) := by
  cases h : busOkAt s 0 with
  | true => exact Proc.ignore_ok (primMemWrite_ok hb h)
  | false => exact Proc.ignore_err (primMemWrite_err hb h)

/-- A close with its error dropped: BUSOPEN is 0 either way (20_memory.md R41). -/
theorem primBusClose_ignore {s : State} (hb : s.busOpen = true) :
    primBusClose.ignore s = .ok () { advance s 1 [.closed (busOkAt s 0)] with busOpen := false } := by
  cases h : busOkAt s 0 with
  | true => exact Proc.ignore_ok (primBusClose_ok hb h)
  | false => exact Proc.ignore_err (primBusClose_err hb h)

/-- P_RESTORE on a session that was enabled (R157, 70_reset_and_hazards.md R260). -/
theorem pRestore_enabled {s : State} (hb : s.busOpen = true) :
    pRestore true s = .ok () (advance s 1 (restartEvents s (busOkAt s 0))) := pContStart_ignore hb

/-- P_RESTORE on a session that was disabled and holds the bus (R157). -/
theorem pRestore_disabled {s : State} (hb : s.busOpen = true) :
    pRestore false s = .ok () (advance { s with enable := false, busOpen := false } 2
      (releaseEvents s (busOkAt s 0) (busOkAt s 1))) := by
  have hw := primMemWrite_ignore (a := s.cfg.dev.regSrst) (v := s.cfg.dev.valSrst) hb
  have hc := primBusClose_ignore (s := advance s 1 [.wrote s.cfg.dev.regSrst s.cfg.dev.valSrst (busOkAt s 0)]) (by exact hb)
  rw [busOkAt_advance] at hc
  have hr : releaseBus s = .ok () (advance { s with busOpen := false } 2 (releaseEvents s (busOkAt s 0) (busOkAt s 1))) := by
    simp only [releaseBus, hb, if_true]
    rw [Proc.andThen_ok hw, hc, advance_advance]; rfl
  simp only [pRestore, Bool.false_eq_true, if_false]
  rw [Proc.andThen_ok hr]; rfl

/-- How a transaction without a result ends, by its answer. -/
def transactionEnd (ok : Bool) : Except ErrKind Unit := if ok then .ok () else .error .deviceCommunication

theorem primMemWrite_attempt {s : State} {a v : Byte} (hb : s.busOpen = true) :
    (primMemWrite a v).attempt s = .ok (transactionEnd (busOkAt s 0)) (advance s 1 [.wrote a v (busOkAt s 0)]) := by
  cases h : busOkAt s 0 with
  | true => exact Proc.attempt_ok (primMemWrite_ok hb h)
  | false => exact Proc.attempt_err (primMemWrite_err hb h)

theorem primBusClose_attempt {s : State} (hb : s.busOpen = true) :
    primBusClose.attempt s =
      .ok (transactionEnd (busOkAt s 0)) { advance s 1 [.closed (busOkAt s 0)] with busOpen := false } := by
  cases h : busOkAt s 0 with
  | true => exact Proc.attempt_ok (primBusClose_ok hb h)
  | false => exact Proc.attempt_err (primBusClose_err hb h)

/-- P_DISABLE, whatever the environment answers: both transactions, ENABLE and BUSOPEN 0, an error if either failed (R186). -/
theorem pDisable_eq {s : State} (hb : s.busOpen = true) :
    pDisable s = if busOkAt s 0 && busOkAt s 1
      then .ok () (advance { s with enable := false, busOpen := false } 2 (releaseEvents s (busOkAt s 0) (busOkAt s 1)))
      else .err .deviceCommunication
        (advance { s with enable := false, busOpen := false } 2 (releaseEvents s (busOkAt s 0) (busOkAt s 1))) := by
  have hc := primBusClose_attempt (s := advance s 1 [.wrote s.cfg.dev.regSrst s.cfg.dev.valSrst (busOkAt s 0)]) (by exact hb)
  rw [busOkAt_advance, advance_advance] at hc
  unfold pDisable
  rw [Proc.bind_ok (primMemWrite_attempt hb), Proc.bind_ok hc, Proc.andThen_ok (Proc.modify_apply _ _)]
  cases busOkAt s 0 <;> cases busOkAt s 1 <;> rfl

/-- P_DISABLE with its error dropped, the cleanup of EXT_NOISE_TEST (44_self_test_controller.md R165). -/
theorem pDisable_ignore {s : State} (hb : s.busOpen = true) :
    pDisable.ignore s = .ok () (advance { s with enable := false, busOpen := false } 2
      (releaseEvents s (busOkAt s 0) (busOkAt s 1))) := by
  have h := pDisable_eq hb
  split at h
  · exact Proc.ignore_ok h
  · exact Proc.ignore_err h

end Sys2Proof.Machine
end

