-- ==== Sys2Proof/Laws/Measure.lean ====
section
/-! SUPPORT. MEASURE up to the state machine: with a sample ready it is U_FSM on `measured s` (45_host_commands.md R197). -/

namespace Sys2Proof.Machine

theorem uOrient_advance (s : State) (n : Nat) (e : List Event) : uOrient (advance s n e) = advance (uOrient s) n e := by
  unfold uOrient
  by_cases h : s.position = 2#3
  · rw [if_pos h, if_pos (by exact h)]; rfl
  · rw [if_neg h, if_neg (by exact h)]; rfl

theorem uConv_advance (s : State) (n : Nat) (e : List Event) : uConv (advance s n e) = advance (uConv s) n e := rfl

theorem uQuant_advance (s : State) (n : Nat) (e : List Event) : uQuant (advance s n e) = advance (uQuant s) n e := rfl

theorem quantised_advance (s : State) (n : Nat) (e : List Event) : quantised (advance s n e) = advance (quantised s) n e := by
  simp only [quantised, uConv_advance, uOrient_advance, uQuant_advance]

@[simp] theorem sampled_raw (D : Fin 8 → Byte) (s : State) : (sampled D s).raw = parseSample D := by
  simp only [sampled, uOvf_raw, uCorrect_raw, captureSample_raw]

@[simp] theorem quantised_raw (s : State) : (quantised s).raw = s.raw := by
  simp only [quantised, uQuant_raw, uOrient_raw, uConv_raw]


@[simp] theorem busOkAt_tickClock (s : State) (k : Nat) : busOkAt (tickClock s) k = busOkAt s k :=
  busOkAt_congr (by simp) (by simp) k

@[simp] theorem sampleAt_tickClock (s : State) (k : Nat) : sampleAt (tickClock s) k = sampleAt s k :=
  funext fun i => busByteAt_congr (by simp) (by simp) k i.val

/-- Drift is a word more than 1500 from its baseline, on any axis (43_measurement_fsm.md R141). -/
theorem drift_iff (c b : Tri (BitVec 14)) :
    drift c b = true ↔ ∃ i : Fin 3, 1500 < (((c.get i).toNat : Int) - ((b.get i).toNat : Int)).natAbs := by
  simp only [drift, axisDrift, Bool.or_eq_true, decide_eq_true_eq]
  constructor
  · rintro ((h | h) | h)
    · exact ⟨0, h⟩
    · exact ⟨1, h⟩
    · exact ⟨2, h⟩
  · rintro ⟨i, h⟩
    match i with
    | 0 => exact .inl (.inl h)
    | 1 => exact .inl (.inr h)
    | 2 => exact .inr h

/-- `TimeNow()` answers the time and leaves the state `timed` names (60_exceptions.md R236). -/
theorem timeNow_eq (s : State) : timeNow s = .ok (nowOf s) (timed s) := by
  unfold timeNow nowOf timed
  by_cases h : s.cfg.hasClock = true
  · rw [if_pos h, if_pos h, if_pos h]; rfl
  · rw [if_neg h, if_neg h, if_neg h]

/-- The pipeline before the time is asked for leaves the clock alone. -/
theorem nowOf_pipeline (D : Fin 8 → Byte) (s : State) (n : Nat) (e : List Event) :
    nowOf (advance (quantised (sampled D s)) n e) = nowOf s := by
  have h1 : (quantised (sampled D s)).cfg = s.cfg := by
    simp only [quantised, sampled, uQuant_cfg, uOrient_cfg, uConv_cfg, uOvf_cfg, uCorrect_cfg, captureSample_cfg]
  have h2 : (quantised (sampled D s)).clockScript = s.clockScript := by
    simp only [quantised, sampled, uQuant_clockScript, uOrient_clockScript, uConv_clockScript, uOvf_clockScript,
      uCorrect_clockScript, captureSample_clockScript]
  have h3 : (quantised (sampled D s)).clockDraws = s.clockDraws := by
    simp only [quantised, sampled, uQuant_clockDraws, uOrient_clockDraws, uConv_clockDraws, uOvf_clockDraws,
      uCorrect_clockDraws, captureSample_clockDraws]
  have h4 : (quantised (sampled D s)).lclk = s.lclk := by
    simp only [quantised, sampled, uQuant_lclk, uOrient_lclk, uConv_lclk, uOvf_lclk, uCorrect_lclk, captureSample_lclk]
  unfold nowOf
  rw [advance_cfg, h1, advance_lclk, h4, clockAt_congr (s := advance (quantised (sampled D s)) n e) (t := s)]
  · exact h2
  · exact h3

/-- MEASURE reaches the state machine (R197). -/
theorem pMeasure_ready {s : State} (h : SampleReady s) :
    pMeasure s = (uFsm (measureTime s)).andThen (fun t => .ok (sampleResponse t.q) t) (measured s) := by
  obtain ⟨_, he, hb, hk, hr⟩ := h
  unfold pMeasure
  simp only [he, Bool.not_true, Bool.false_eq_true, if_false]
  rw [Proc.andThen_ok (pSample_ok (by simpa using hb) (by simpa using hk)), Proc.andThen_ok (Proc.modify_apply _ _)]
  rw [← quantised, quantised_advance]
  unfold judgeSample
  simp only [sampleAt_tickClock, tickClock_cfg, advance_raw, quantised_raw, sampled_raw, hr, Bool.false_eq_true, if_false]
  rw [Proc.bind_ok (timeNow_eq _), nowOf_pipeline]
  rfl

/-- A busy sample: cached, computed and dropped (43_measurement_fsm.md R144, R197). -/
theorem pMeasure_busy {s : State} (he : s.enable = true) (hb : s.busOpen = true) (hk : busOkAt s 0 = true)
    (hr : (parseSample (sampleAt s 0)).busy = true) :
    pMeasure s = .err .busy (advance (quantised (sampled (sampleAt s 0) (tickClock s))) 1
      [.read s.cfg.dev.regData 8 (some (List.ofFn (sampleAt s 0)))]) := by
  unfold pMeasure
  simp only [he, Bool.not_true, Bool.false_eq_true, if_false]
  rw [Proc.andThen_ok (pSample_ok (by simpa using hb) (by simpa using hk)), Proc.andThen_ok (Proc.modify_apply _ _)]
  rw [← quantised, quantised_advance]
  unfold judgeSample
  simp only [sampleAt_tickClock, tickClock_cfg, advance_raw, quantised_raw, sampled_raw, hr, if_true]

/-- A failed data read (R197, 60_exceptions.md R235). -/
theorem pMeasure_readFails {s : State} (he : s.enable = true) (hb : s.busOpen = true) (hk : busOkAt s 0 = false) :
    pMeasure s = .err .deviceCommunication (advance (tickClock s) 1 [.read s.cfg.dev.regData 8 none]) := by
  have h : pSample (tickClock s) = .err .deviceCommunication (advance (tickClock s) 1 [.read s.cfg.dev.regData 8 none]) := by
    unfold pSample
    rw [Proc.bind_err (primMemRead_err (by simpa using hb) (by simpa using hk)), tickClock_cfg]
  unfold pMeasure
  simp only [he, Bool.not_true, Bool.false_eq_true, if_false]
  rw [Proc.andThen_err h]

end Sys2Proof.Machine
end

