-- ==== Sys2Proof/Laws/SelfTest.lean ====
section
/-! SUPPORT. The diagnostics past their transactions: what judges a sample, and the shots around a reload
(44_self_test_controller.md R156 to R165). -/

namespace Sys2Proof.Machine

/-! ### The bookkeeping a captured sample leaves alone -/

@[simp] theorem sampled_busOpen (D : Fin 8 → Byte) (s : State) : (sampled D s).busOpen = s.busOpen := by simp [sampled]
@[simp] theorem sampled_cfg (D : Fin 8 → Byte) (s : State) : (sampled D s).cfg = s.cfg := by simp [sampled]
@[simp] theorem sampled_avg (D : Fin 8 → Byte) (s : State) : (sampled D s).avg = s.avg := by simp [sampled]
@[simp] theorem sampled_model (D : Fin 8 → Byte) (s : State) : (sampled D s).model = s.model := by simp [sampled]
@[simp] theorem sampled_busScript (D : Fin 8 → Byte) (s : State) : (sampled D s).busScript = s.busScript := by simp [sampled]
@[simp] theorem sampled_busDraws (D : Fin 8 → Byte) (s : State) : (sampled D s).busDraws = s.busDraws := by simp [sampled]

@[simp] theorem busOkAt_sampled (D : Fin 8 → Byte) (s : State) (k : Nat) : busOkAt (sampled D s) k = busOkAt s k :=
  busOkAt_congr (by simp) (by simp) k

@[simp] theorem sampleAt_sampled (D : Fin 8 → Byte) (s : State) (k : Nat) : sampleAt (sampled D s) k = sampleAt s k :=
  funext fun i => busByteAt_congr (by simp) (by simp) k i.val

/-- Capturing a sample and opening the bus do not meet. -/
theorem sampled_setBusOpen (D : Fin 8 → Byte) (s : State) (b : Bool) :
    sampled D { s with busOpen := b } = { sampled D s with busOpen := b } := by
  unfold sampled uCorrect
  by_cases h : s.model.ver = 0#1
  · rw [if_pos (by exact h), if_pos (by exact h)]; rfl
  · rw [if_neg (by exact h), if_neg (by exact h)]; rfl

/-! ### The bookkeeping a commit leaves alone -/

theorem Accepts.busOkAt_commit {s t : State} {B : CalBlock} {ws : List (Byte × Byte)} {f : State → State}
    (h : Accepts s B ws f) (k : Nat) : busOkAt (f t) k = busOkAt t k := by cases h <;> rfl

theorem Accepts.sampleAt_commit {s t : State} {B : CalBlock} {ws : List (Byte × Byte)} {f : State → State}
    (h : Accepts s B ws f) (k : Nat) : sampleAt (f t) k = sampleAt t k := by cases h <;> rfl

theorem Accepts.cfg_commit {s t : State} {B : CalBlock} {ws : List (Byte × Byte)} {f : State → State}
    (h : Accepts s B ws f) : (f t).cfg = t.cfg := by cases h <;> rfl

theorem Accepts.avg_commit {s t : State} {B : CalBlock} {ws : List (Byte × Byte)} {f : State → State}
    (h : Accepts s B ws f) : (f t).avg = t.avg := by cases h <;> rfl

theorem Accepts.commit_setBusOpen {s t : State} {B : CalBlock} {ws : List (Byte × Byte)} {f : State → State}
    (h : Accepts s B ws f) (b : Bool) : f { t with busOpen := b } = { f t with busOpen := b } := by cases h <;> rfl

theorem Accepts.enable_commit {s t : State} {B : CalBlock} {ws : List (Byte × Byte)} {f : State → State}
    (h : Accepts s B ws f) : (f t).enable = t.enable := by cases h <;> rfl

/-! ### Judging a sample -/

theorem checkMask_clear (s : State) : checkMask 0#6 s = .ok () s := rfl

theorem checkMask_overflow {m : BitVec 6} (h : anyOverflow m = true) (s : State) :
    checkMask m s = .err .overflowDetected s := by simp [checkMask, h]

theorem checkMask_underflow {m : BitVec 6} (h : anyOverflow m = false) (h' : anyUnderflow m = true) (s : State) :
    checkMask m s = .err .underflowDetected s := by simp [checkMask, h, h']

/-- The direction is the zero vector exactly when every physical value is below 1000 in magnitude (R160 step 6). -/
theorem direction_zero_iff (p : Tri Word) : direction p = ⟨0, 0, 0⟩ ↔ ∀ i : Fin 3, (p.get i).toInt.natAbs < 1000 := by
  have key : ∀ v : Int, v.tdiv 1000 = 0 ↔ v.natAbs < 1000 := fun v => by
    have : (v.tdiv 1000).natAbs = v.natAbs / 1000 := by rw [Int.natAbs_tdiv]; rfl
    omega
  simp only [direction, Tri.map, Tri.mk.injEq, key]
  constructor
  · rintro ⟨h0, h1, h2⟩ i
    match i with
    | 0 => exact h0
    | 1 => exact h1
    | 2 => exact h2
  · exact fun h => ⟨h 0, h 1, h 2⟩

/-- A sample without overflow or underflow whose direction is not zero (R160 steps 4 to 7). -/
theorem judgeDirection_ok {s : State} (h : s.ovf = 0#6) (hd : direction (uConv s).p ≠ ⟨0, 0, 0⟩) :
    judgeDirection s = .ok (okResponse (word32 (direction (uConv s).p).c0) (word32 (direction (uConv s).p).c1)
      (word32 (direction (uConv s).p).c2) 0) (uConv s) := by
  unfold judgeDirection
  rw [h, Proc.andThen_ok (checkMask_clear s), Proc.andThen_ok (Proc.modify_apply _ _)]
  generalize direction (uConv s).p = d at *
  have : ¬ (d.c0 = 0 ∧ d.c1 = 0 ∧ d.c2 = 0) := by
    rintro ⟨h0, h1, h2⟩; cases d; simp_all
  rw [directionResult, if_neg this]; rfl

/-- The zero direction (R160 step 6). -/
theorem judgeDirection_zero {s : State} (h : s.ovf = 0#6) (hd : direction (uConv s).p = ⟨0, 0, 0⟩) :
    judgeDirection s = .err .directionCalcFailed (uConv s) := by
  unfold judgeDirection
  rw [h, Proc.andThen_ok (checkMask_clear s), Proc.andThen_ok (Proc.modify_apply _ _), hd]; rfl

theorem judgeDirection_overflow {s : State} (h : anyOverflow s.ovf = true) :
    judgeDirection s = .err .overflowDetected s := Proc.andThen_err (checkMask_overflow h s)

theorem judgeDirection_underflow {s : State} (h : anyOverflow s.ovf = false) (h' : anyUnderflow s.ovf = true) :
    judgeDirection s = .err .underflowDetected s := Proc.andThen_err (checkMask_underflow h h' s)

theorem uLinearAcc_advance (d : Tri Int) (s : State) (n : Nat) (e : List Event) :
    uLinearAcc d (advance s n e) = advance (uLinearAcc d s) n e := by
  unfold uLinearAcc
  by_cases h : s.model.ver = 0#1
  · rw [if_pos h, if_pos (by exact h)]
  · rw [if_neg h, if_neg (by exact h)]; rfl

/-! ### Shots around a reload -/

/-- Reload, then one plain shot, its sample judged by BUSY (R160 steps 2 and 3). -/
theorem reloadAndShot_eq {s : State} {ws : List (Byte × Byte)} {f : State → State} (hacc : Accepts s (blockAt s 1) ws f)
    (hb : s.busOpen = true) (hk : AnswersOk s (ws.length + 6)) :
    (pResetDecode.andThen (pSingleShot false false)) s =
      if (parseSample (sampleAt s (ws.length + 5))).busy then
        .err .busy (advance (sampled (sampleAt s (ws.length + 5)) (resetMeasurement (f s))) (ws.length + 6)
          (resetDecodeEvents s (blockAt s 1) ws ++ singleShotEvents s false false (sampleAt s (ws.length + 5))))
      else
        .ok () (advance (sampled (sampleAt s (ws.length + 5)) (resetMeasurement (f s))) (ws.length + 6)
          (resetDecodeEvents s (blockAt s 1) ws ++ singleShotEvents s false false (sampleAt s (ws.length + 5)))) := by
  rw [Proc.andThen_ok (pResetDecode_ok hacc hb (hk.le (by omega)))]
  have h1 : ∀ e k, busOkAt (advance (resetMeasurement (f s)) (ws.length + 4) e) k = busOkAt s (ws.length + 4 + k) :=
    fun e k => (busOkAt_advance _ _ _ _).trans (hacc.busOkAt_commit _)
  have h2 : ∀ e k, sampleAt (advance (resetMeasurement (f s)) (ws.length + 4) e) k = sampleAt s (ws.length + 4 + k) :=
    fun e k => (sampleAt_advance _ _ _ _).trans (hacc.sampleAt_commit _)
  rw [pSingleShot_eq (by simpa [hacc.commit_busOpen] using hb) (fun k hkk => by rw [h1]; exact hk _ (by omega))]
  rw [h2, sampled_advance, advance_advance]
  simp only [singleShotEvents, advance_cfg, advance_avg, resetMeasurement_cfg, resetMeasurement_avg, hacc.cfg_commit,
    hacc.avg_commit]

/-- The same with a sample that is ready. -/
theorem reloadAndShot_ok {s : State} {ws : List (Byte × Byte)} {f : State → State} (hacc : Accepts s (blockAt s 1) ws f)
    (hb : s.busOpen = true) (hk : AnswersOk s (ws.length + 6))
    (hr : (parseSample (sampleAt s (ws.length + 5))).busy = false) :
    (pResetDecode.andThen (pSingleShot false false)) s =
      .ok () (advance (sampled (sampleAt s (ws.length + 5)) (resetMeasurement (f s))) (ws.length + 6)
        (resetDecodeEvents s (blockAt s 1) ws ++ singleShotEvents s false false (sampleAt s (ws.length + 5)))) := by
  rw [reloadAndShot_eq hacc hb hk, hr]; rfl

/-- The two shots of EXT_SENSITIVITY, both with a sample ready (R162 steps 2 and 3), up to their judgement. -/
theorem twoShots_eq {s : State} (hb : s.busOpen = true) (hk : AnswersOk s 4)
    (h1 : (parseSample (sampleAt s 1)).busy = false) (h2 : (parseSample (sampleAt s 3)).busy = false) :
    twoShots s = sensResult (sampled (sampleAt s 1) s).lastRaw (sampled (sampleAt s 1) s).ovf
      (advance (sampled (sampleAt s 3) (sampled (sampleAt s 1) s)) 4
        (singleShotEvents s true false (sampleAt s 1) ++ singleShotEvents s true true (sampleAt s 3))) := by
  unfold twoShots
  rw [Proc.andThen_ok (pSingleShot_ok hb (hk.le (by omega)) h1)]
  have e1 : ∀ e k, busOkAt (advance (sampled (sampleAt s 1) s) 2 e) k = busOkAt s (2 + k) :=
    fun e k => (busOkAt_advance _ _ _ _).trans (busOkAt_sampled _ _ _)
  have e2 : ∀ e k, sampleAt (advance (sampled (sampleAt s 1) s) 2 e) k = sampleAt s (2 + k) :=
    fun e k => (sampleAt_advance _ _ _ _).trans (sampleAt_sampled _ _ _)
  rw [Proc.andThen_ok (pSingleShot_ok (by simpa using hb) (fun k hkk => by rw [e1]; exact hk _ (by omega))
    (by rw [e2]; exact h2))]
  rw [e2, sampled_advance, advance_advance]
  simp only [singleShotEvents, advance_cfg, advance_avg, sampled_cfg, sampled_avg, advance_lastRaw, advance_ovf]

end Sys2Proof.Machine
end

