-- ==== Sys2Proof/Laws/Flow.lean ====
section
/-! SUPPORT. Where each procedure can end, said once: from a state with a property `J` that the register writes keep, and with
the bus as its precondition asks, it ends without a fault, with `J` again, and with BUSOPEN and ENABLE as named. -/

namespace Sys2Proof.Machine

/-- A property that every register write of a procedure keeps, and that rules out MSTATE = 3 (R16). -/
structure Closed (J : State → Prop) : Prop where
  mstateLegal : ∀ s, J s → s.mstate ≠ 3#2
  onAdvance : ∀ s n evs, J s → J (advance s n evs)
  onBusOpen : ∀ s b, J s → J { s with busOpen := b }
  onEnable : ∀ s b, J s → J { s with enable := b }
  onCommitV0 : ∀ s B, J s → J (commitV0 B s)
  onCommitV1 : ∀ s B, J s → J (commitV1 B s)
  onReset : ∀ s, J s → J (resetMeasurement s)
  onSampled : ∀ s D, J s → J (sampled D s)
  onQuantised : ∀ s, J s → J (quantised s)
  onConverted : ∀ s, J s → J (uConv s)
  onLinear : ∀ s d, J s → J (uLinearAcc d s)
  onTick : ∀ s, J s → J (tickClock s)
  onTimed : ∀ s, J s → J (timed s)
  onCoil : ∀ s now, J s → s.mstate = mInitCoil → J (coilDone now s)
  onNormal : ∀ s now, J s → s.mstate = mNormal → J (fsmNormal now s)
  onRecord : ∀ s now, J s → s.mstate = mRecordData → J (fsmRecordData now s)

/-- `J`, with BUSOPEN and ENABLE at these values. -/
def Live (J : State → Prop) (b e : Bool) (s : State) : Prop := J s ∧ s.busOpen = b ∧ s.enable = e

variable {J : State → Prop}

theorem Closed.live_advance (h : Closed J) {b e : Bool} {s : State} (n : Nat) (evs : List Event) (hs : Live J b e s) :
    Live J b e (advance s n evs) := ⟨h.onAdvance s n evs hs.1, hs.2.1, hs.2.2⟩

theorem Closed.write_sat (h : Closed J) {e : Bool} {s : State} (a v : Byte) (hs : Live J true e s) :
    (primMemWrite a v s).Sat (fun _ => Live J true e) (fun _ => Live J true e) :=
  primMemWrite_sat hs.2.1 (fun evs => h.live_advance 1 evs hs) (fun evs => h.live_advance 1 evs hs)

theorem Closed.close_sat (h : Closed J) {e : Bool} {s : State} (hs : Live J true e s) :
    (primBusClose s).Sat (fun _ => Live J false e) (fun _ => Live J false e) :=
  primBusClose_sat hs.2.1 (fun b => ⟨h.onBusOpen _ false (h.onAdvance s 1 [.closed b] hs.1), rfl, hs.2.2⟩)
    (fun b => ⟨h.onBusOpen _ false (h.onAdvance s 1 [.closed b] hs.1), rfl, hs.2.2⟩)

theorem Closed.open_sat (h : Closed J) {e : Bool} {s : State} (hs : Live J false e s) :
    (primBusOpen s).Sat (fun _ => Live J true e) (fun _ => Live J false e) :=
  primBusOpen_sat hs.2.1 ⟨h.onBusOpen _ true (h.onAdvance s 1 [.opened true] hs.1), rfl, hs.2.2⟩
    (h.live_advance 1 [.opened false] hs)

theorem Closed.sleep_sat (h : Closed J) {b e : Bool} {s : State} {E : ErrKind → State → Prop} (us : Nat) (hs : Live J b e s) :
    (primSleep us s).Sat (fun _ => Live J b e) E := h.live_advance 0 _ hs

theorem Closed.caldec_sat (h : Closed J) {e : Bool} {s : State} (B : CalBlock) (hs : Live J true e s) :
    (uCaldec B s).Sat (fun _ => Live J true e) (fun _ => Live J true e) := by
  have hw : ∀ (ws : List (Byte × Byte)) (g : State → State), (∀ t, Live J true e t → Live J true e (g t)) →
      ((writeAll ws).andThen (Proc.modify g) s).Sat (fun _ => Live J true e) (fun _ => Live J true e) := fun ws g hg =>
    Proc.andThen_sat (writeAll_sat hs.2.1 (fun n evs => h.live_advance n evs hs) (fun n evs => h.live_advance n evs hs))
      fun t ht => hg t ht
  unfold uCaldec
  split
  · exact hs
  split
  · exact hw _ _ fun t ht => ⟨h.onCommitV0 t B ht.1, ht.2.1, ht.2.2⟩
  split
  · exact hw _ _ fun t ht => ⟨h.onCommitV1 t B ht.1, ht.2.1, ht.2.2⟩
  · exact hs

theorem Closed.resetDecode_sat (h : Closed J) {e : Bool} {s : State} (hs : Live J true e s) :
    (pResetDecode s).Sat (fun _ => Live J true e) (fun _ => Live J true e) := by
  unfold pResetDecode
  refine Proc.andThen_sat (h.write_sat _ _ hs) fun t ht => ?_
  refine Proc.andThen_sat (h.sleep_sat _ ht) fun t ht => ?_
  refine Proc.bind_sat (Q := fun _ => Live J true e) (primMemRead_sat ht.2.1 (fun evs => h.live_advance 1 evs ht)
    (fun evs => h.live_advance 1 evs ht)) fun B t ht => ?_
  refine Proc.andThen_sat (h.caldec_sat B ht) fun t ht => ?_
  refine Proc.andThen_sat (h.write_sat _ _ ht) fun t ht => ?_
  refine Proc.andThen_sat (h.write_sat _ _ ht) fun t ht => ?_
  exact ⟨h.onReset t ht.1, ht.2.1, ht.2.2⟩

theorem Closed.contStart_sat (h : Closed J) {e : Bool} {s : State} (hs : Live J true e s) :
    (pContStart s).Sat (fun _ => Live J true e) (fun _ => Live J true e) :=
  Proc.andThen_sat (h.write_sat _ _ hs) fun _ ht => h.sleep_sat _ ht

/-- P_ENABLE: open and enabled, or closed and disabled (R185). -/
theorem Closed.enable_sat (h : Closed J) {s : State} (hs : Live J false false s) :
    (pEnable s).Sat (fun _ => Live J true true) (fun _ => Live J false false) := by
  unfold pEnable
  refine Proc.andThen_sat (h.open_sat hs) fun t ht => ?_
  refine Proc.bind_sat (Q := fun _ => Live J true false) (Proc.attempt_sat
    (Proc.andThen_sat (h.resetDecode_sat ht) fun u hu => h.contStart_sat hu)) fun r t ht => ?_
  cases r with
  | ok _ => exact ⟨h.onEnable t true ht.1, ht.2.1, rfl⟩
  | error k => exact Proc.andThen_sat (R := fun _ => Live J true true) (Proc.ignore_sat (h.close_sat ht)) fun u hu => hu

/-- P_DISABLE: closed and disabled, whatever failed (R186). -/
theorem Closed.disable_sat (h : Closed J) {e : Bool} {s : State} (hs : Live J true e s) :
    (pDisable s).Sat (fun _ => Live J false false) (fun _ => Live J false false) := by
  unfold pDisable
  refine Proc.bind_sat (Q := fun _ => Live J true e) (Proc.attempt_sat (h.write_sat _ _ hs)) fun e1 t ht => ?_
  refine Proc.bind_sat (Q := fun _ => Live J false e) (Proc.attempt_sat (h.close_sat ht)) fun e2 t ht => ?_
  refine Proc.andThen_sat (Q := Live J false false) ⟨h.onEnable t false ht.1, ht.2.1, rfl⟩ fun t ht => ?_
  have hr : ∀ (r : Except ErrKind Unit) (u : State), Live J false false u →
      (reraise r u).Sat (fun _ => Live J false false) (fun _ => Live J false false) := by
    intro r u hu; cases r <;> exact hu
  exact Proc.andThen_sat (hr e1 t ht) fun u hu => hr e2 u hu

/-- P_REAPPLY: enabled again, or disabled (R195). -/
theorem Closed.reapply_sat (h : Closed J) {s : State} (hs : Live J true true s) :
    (pReapply s).Sat (fun _ => Live J true true) (fun _ => Live J false false) :=
  Proc.andThen_sat (h.disable_sat hs) fun _ ht => h.enable_sat ht

theorem Closed.live_sampled (h : Closed J) {b e : Bool} {s : State} (D : Fin 8 → Byte) (hs : Live J b e s) :
    Live J b e (sampled D s) :=
  ⟨h.onSampled s D hs.1, by simpa using hs.2.1, by simpa [sampled] using hs.2.2⟩

theorem Closed.sample_sat (h : Closed J) {e : Bool} {s : State} (hs : Live J true e s) :
    (pSample s).Sat (fun _ => Live J true e) (fun _ => Live J true e) := by
  unfold pSample
  refine Proc.bind_sat (Q := fun _ => Live J true e) (primMemRead_sat hs.2.1 (fun evs => h.live_advance 1 evs hs)
    (fun evs => h.live_advance 1 evs hs)) fun D t ht => ?_
  exact h.live_sampled D ht

theorem Closed.singleShot_sat (h : Closed J) {e : Bool} {s : State} (ldtc fors : Bool) (hs : Live J true e s) :
    (pSingleShot ldtc fors s).Sat (fun _ => Live J true e) (fun _ => Live J true e) := by
  unfold pSingleShot
  refine Proc.andThen_sat (h.write_sat _ _ hs) fun t ht => ?_
  refine Proc.andThen_sat (h.sleep_sat _ ht) fun t ht => ?_
  refine Proc.andThen_sat (h.sample_sat ht) fun t ht => ?_
  split <;> exact ht

theorem Closed.fsm_sat (h : Closed J) {e : Bool} {s : State} (now : Word) (hs : Live J true e s) :
    (uFsm now s).Sat (fun _ => Live J true e) (fun _ => Live J true e) := by
  have hn : ∀ t : State, (fsmNormal now t).busOpen = t.busOpen ∧ (fsmNormal now t).enable = t.enable := by
    intro t; unfold fsmNormal; split <;> exact ⟨rfl, rfl⟩
  unfold uFsm
  split
  · rename_i hm
    unfold fsmInitCoil
    split
    · refine Proc.andThen_sat (Q := fun t => Live J true e t ∧ t.mstate = mInitCoil)
        (primMemWrite_sat hs.2.1 (fun evs => ⟨h.live_advance 1 evs hs, hm⟩) (fun evs => h.live_advance 1 evs hs)) ?_
      exact fun t ht => ⟨h.onCoil t now ht.1.1 ht.2, ht.1.2.1, ht.1.2.2⟩
    · exact hs
  split
  · rename_i hm
    refine ⟨h.onRecord s now hs.1 hm, ?_, ?_⟩
    · unfold fsmRecordData; split <;> [exact hs.2.1; exact ((hn _).1).trans hs.2.1]
    · unfold fsmRecordData; split <;> [exact hs.2.2; exact ((hn _).2).trans hs.2.2]
  split
  · rename_i hm
    exact ⟨h.onNormal s now hs.1 hm, (hn s).1.trans hs.2.1, (hn s).2.trans hs.2.2⟩
  · rename_i h1 h2 h3
    have hm := h.mstateLegal s hs.1
    exfalso
    revert h1 h2 h3 hm
    generalize s.mstate = m
    revert m
    decide

theorem Closed.measure_sat (h : Closed J) {e : Bool} {s : State} (hs : Live J e e s) :
    (pMeasure s).Sat (fun _ => Live J e e) (fun _ => Live J e e) := by
  have ht : Live J e e (tickClock s) := ⟨h.onTick s hs.1, by simpa using hs.2.1, by simpa using hs.2.2⟩
  unfold pMeasure
  cases e with
  | false => rw [hs.2.2]; exact ht
  | true =>
    rw [hs.2.2]
    refine Proc.andThen_sat (h.sample_sat ht) fun t ht => ?_
    have hq : Live J true true (quantised t) :=
      ⟨h.onQuantised t ht.1, by simpa [quantised] using ht.2.1, by simpa [quantised] using ht.2.2⟩
    refine Proc.andThen_sat (Q := Live J true true) hq fun t ht => ?_
    unfold judgeSample
    split
    · exact ht
    · refine Proc.bind_sat (Q := fun _ => Live J true true) (E := fun _ => Live J true true) ?_ fun now u hu => ?_
      · rw [timeNow_eq]
        refine ⟨h.onTimed t ht.1, ?_, ?_⟩
        · unfold timed; split <;> exact ht.2.1
        · unfold timed; split <;> exact ht.2.2
      · exact Proc.andThen_sat (h.fsm_sat now hu) fun v hv => hv

theorem Closed.ignore_contStart_sat (h : Closed J) {e : Bool} {s : State} {E : ErrKind → State → Prop}
    (hs : Live J true e s) : (pContStart.ignore s).Sat (fun _ => Live J true e) E := Proc.ignore_sat (h.contStart_sat hs)

/-- P_RESTORE puts ENABLE back, and BUSOPEN with it, from wherever the body ended (R157). -/
theorem Closed.restore_sat (h : Closed J) {was : Bool} {s : State} {E : ErrKind → State → Prop}
    (hs : Live J true was s ∨ (was = false ∧ Live J false false s)) :
    (pRestore was s).Sat (fun _ => Live J was was) E := by
  unfold pRestore
  cases was with
  | true =>
    rcases hs with hs | ⟨h0, _⟩
    · exact h.ignore_contStart_sat hs
    · cases h0
  | false =>
    refine Proc.andThen_sat (Q := Live J false false) ?_ fun t ht => ⟨h.onEnable t false ht.1, ht.2.1, rfl⟩
    unfold releaseBus
    rcases hs with hs | ⟨_, hs⟩
    · rw [if_pos hs.2.1]
      exact Proc.andThen_sat (Proc.ignore_sat (h.write_sat _ _ hs)) fun t ht => Proc.ignore_sat (h.close_sat ht)
    · rw [if_neg (by simp [hs.2.1])]; exact hs

theorem Closed.mask_sat {b e : Bool} {s : State} (m : BitVec 6) (hs : Live J b e s) :
    (checkMask m s).Sat (fun _ => Live J b e) (fun _ => Live J b e) := by
  unfold checkMask; split <;> [exact hs; (split <;> exact hs)]

theorem Closed.selfTest_sat (h : Closed J) {was : Bool} {s : State} (hs : Live J was was s) :
    ((selfTestBody was).withCleanup (pRestore was) s).Sat (fun _ => Live J was was) (fun _ => Live J was was) := by
  have hj : ∀ t, Live J true was t → (judgeDirection t).Sat (fun _ => Live J true was) (fun _ => Live J true was) := by
    intro t ht
    refine Proc.andThen_sat (Closed.mask_sat _ ht) fun t ht => ?_
    refine Proc.andThen_sat (Q := Live J true was) ⟨h.onConverted t ht.1, ht.2.1, ht.2.2⟩ fun t ht => ?_
    unfold directionResult
    split <;> exact ht
  have hb : (selfTestBody was s).Sat (fun _ => Live J true was)
      (fun _ t => Live J true was t ∨ (was = false ∧ Live J false false t)) := by
    unfold selfTestBody
    refine Proc.andThen_sat (Q := Live J true was) ?_ fun t ht =>
      (Proc.andThen_sat (Proc.andThen_sat (h.resetDecode_sat ht) fun u hu => h.singleShot_sat _ _ hu)
        hj).mono (fun _ _ h => h) (fun _ _ h => .inl h)
    cases was with
    | true => exact hs
    | false => exact (h.open_sat hs).mono (fun _ _ h => h) (fun _ _ h => .inr ⟨rfl, h⟩)
  exact Proc.withCleanup_sat hb (fun _ t ht => h.restore_sat (.inl ht)) fun _ t ht => h.restore_sat ht

theorem Closed.sensitivity_sat (h : Closed J) {was : Bool} {s : State} (hs : Live J was was s) :
    ((sensitivityBody was).withCleanup (pRestore was) s).Sat (fun _ => Live J was was) (fun _ => Live J was was) := by
  have hr : ∀ p fp t, Live J true was t → (sensResult p fp t).Sat (fun _ => Live J true was) (fun _ => Live J true was) := by
    intro p fp t ht
    refine Proc.andThen_sat (Q := Live J true was) ⟨h.onLinear t _ ht.1, by simpa using ht.2.1, by simpa using ht.2.2⟩ ?_
    exact fun t ht => Proc.andThen_sat (Closed.mask_sat _ ht) fun t ht => ht
  have htw : ∀ t, Live J true was t → (twoShots t).Sat (fun _ => Live J true was) (fun _ => Live J true was) := by
    intro t ht
    refine Proc.andThen_sat (h.singleShot_sat _ _ ht) fun t ht => ?_
    exact Proc.andThen_sat (h.singleShot_sat _ _ ht) fun u hu => hr _ _ u hu
  have hb : (sensitivityBody was s).Sat (fun _ => Live J true was)
      (fun _ t => Live J true was t ∨ (was = false ∧ Live J false false t)) := by
    unfold sensitivityBody
    refine Proc.andThen_sat (Q := Live J true was) ?_ fun t ht => (htw t ht).mono (fun _ _ h => h) (fun _ _ h => .inl h)
    cases was with
    | true => exact hs
    | false =>
      refine Proc.andThen_sat ((h.open_sat hs).mono (fun _ _ h => h) (fun _ _ h => .inr ⟨rfl, h⟩)) fun t ht => ?_
      exact (h.resetDecode_sat ht).mono (fun _ _ h => h) (fun _ _ h => .inl h)
  exact Proc.withCleanup_sat hb (fun _ t ht => h.restore_sat (.inl ht)) fun _ t ht => h.restore_sat ht

theorem Closed.noise_sat (h : Closed J) {was : Bool} {s : State} (hs : Live J was was s) :
    ((noiseBody was).withCleanup (noiseCleanup was) s).Sat (fun _ => Live J was was) (fun _ => Live J was was) := by
  have hc : ∀ t, (Live J true true t ∨ (was = false ∧ Live J false false t)) →
      (noiseCleanup was t).Sat (fun _ => Live J was was) (fun _ => Live J was was) := by
    intro t ht
    unfold noiseCleanup
    rcases ht with ht | ⟨h0, ht⟩
    · cases was with
      | true => rw [if_neg (by simp)]; exact ht
      | false => rw [if_pos (by simp [ht.2.2])]; exact Proc.ignore_sat (h.disable_sat ht)
    · subst h0; rw [if_neg (by simp [ht.2.2])]; exact ht
  have hb : (noiseBody was s).Sat (fun _ => Live J true true)
      (fun _ t => Live J true true t ∨ (was = false ∧ Live J false false t)) := by
    unfold noiseBody
    refine Proc.andThen_sat (Q := Live J true true) ?_ fun t ht => ?_
    · cases was with
      | true => exact hs
      | false => exact (h.enable_sat hs).mono (fun _ _ h => h) (fun _ _ h => .inr ⟨rfl, h⟩)
    · exact Proc.bind_sat ((h.measure_sat ht).mono (fun _ _ h => h) (fun _ _ h => .inl h)) fun _ u hu => hu
  exact Proc.withCleanup_sat hb (fun _ t ht => hc t (.inl ht)) fun _ t ht => hc t ht

end Sys2Proof.Machine
end

