-- ==== Sys2Proof/Laws/Layout.lean ====
section
/-! SUPPORT. The fields of the calibration block: the range of a field under any layout, a field of adjacent bits as a quotient
and a remainder, and the nine values of a version-1 model as exact integers (30_encoding.md R66, R67). -/

namespace Sys2Proof.Machine

theorem bitsValue_lt (bs : List Bool) : bitsValue bs < 2 ^ bs.length := by
  induction bs with
  | nil => exact Nat.one_pos
  | cons b bs ih =>
    have hb : b.toNat ≤ 1 := Bool.toNat_le b
    simp only [bitsValue, List.length_cons, Nat.pow_succ]
    omega

/-- A field has as many bits as its layout names, whichever they are. -/
theorem calField_range {w : Nat} (B : CalBlock) (bits : Vector (Fin 72) w) :
    0 ≤ calField B bits ∧ calField B bits < 2 ^ w := by
  have h := bitsValue_lt (bits.toList.map fun i => (calString B).getLsbD i.val)
  rw [List.length_map, Vector.length_toList] at h
  exact ⟨Int.natCast_nonneg _, by unfold calField; exact_mod_cast h⟩

/-- The bits of the number made of the given bits. -/
theorem bitsValue_testBit (bs : List Bool) (i : Nat) : (bitsValue bs).testBit i = bs.getD i false := by
  induction bs generalizing i with
  | nil => simp [bitsValue]
  | cons b bs ih =>
    cases i with
    | zero => cases b <;> simp [bitsValue, Nat.testBit_zero]
    | succ i =>
      have h : (b.toNat + 2 * bitsValue bs) / 2 = bitsValue bs := by have := Bool.toNat_le b; omega
      rw [bitsValue, Nat.testBit_succ, h, ih, List.getD_cons_succ]

/-- Bit `j` of S is bit `j mod 8` of the byte it falls in, byte 3 first (30_encoding.md R66). -/
theorem calString_bit (B : CalBlock) (j : Fin 72) :
    (calString B).getLsbD j.val = (B ⟨3 + (71 - j.val) / 8, by omega⟩).getLsbD (j.val % 8) := by
  unfold calString
  refine (BitVec.getLsbD_append ..).trans ?_
  iterate 7 rw [BitVec.getLsbD_append]
  fin_cases j <;> rfl

/-- Adjacent bits are a quotient and a remainder. -/
theorem bitsValue_adjacent {n : Nat} (x : BitVec n) (w lo : Nat) :
    bitsValue ((List.range' lo w).map x.getLsbD) = x.toNat / 2 ^ lo % 2 ^ w := by
  induction w generalizing lo with
  | zero => simp [bitsValue, Nat.mod_one]
  | succ w ih =>
    have hd : x.toNat / 2 ^ (lo + 1) = x.toNat / 2 ^ lo / 2 := by rw [Nat.pow_succ, Nat.div_div_eq_div_mul]
    have hb : (x.getLsbD lo).toNat = x.toNat / 2 ^ lo % 2 := by
      rw [← BitVec.testBit_toNat, Nat.testBit_eq_decide_div_mod_eq]
      by_cases h : x.toNat / 2 ^ lo % 2 = 1
      · simp [h]
      · rw [decide_eq_false h]; simp only [Bool.toNat_false]; omega
    rw [List.range'_succ, List.map_cons, bitsValue, ih, hd, hb, Nat.pow_succ, Nat.mul_comm (2 ^ w) 2, Nat.mod_mul]

/-- A field whose layout names adjacent bits, lowest first. -/
theorem calField_adjacent {w : Nat} {B : CalBlock} {bits : Vector (Fin 72) w} {lo : Nat}
    (h : bits.toList.map (fun i => i.val) = List.range' lo w) :
    calField B bits = (((calString B).toNat / 2 ^ lo % 2 ^ w : Nat) : Int) := by
  rw [← bitsValue_adjacent, ← h, List.map_map]
  rfl

/-- The nine values of a version-1 model: no bias makes one leave its register (R67). -/
theorem decodeModel_values (l : CalLayout) (B : CalBlock) :
    (decodeModel l B).a2.toInt = calField B l.a2 - 64 ∧ (decodeModel l B).a3.toInt = calField B l.a3 - 64 ∧
    (decodeModel l B).a4.toInt = calField B l.a4 - 128 ∧ (decodeModel l B).a5.toInt = calField B l.a5 - 112 ∧
    (decodeModel l B).a6.toInt = calField B l.a6 - 64 ∧ (decodeModel l B).a7.toInt = calField B l.a7 - 128 ∧
    (decodeModel l B).a8.toInt = calField B l.a8 - 64 ∧ (decodeModel l B).a9.toInt = calField B l.a9 - 112 ∧
    (decodeModel l B).k.toInt = calField B l.k := by
  have r2 := calField_range B l.a2
  have r3 := calField_range B l.a3
  have r4 := calField_range B l.a4
  have r5 := calField_range B l.a5
  have r6 := calField_range B l.a6
  have r7 := calField_range B l.a7
  have r8 := calField_range B l.a8
  have r9 := calField_range B l.a9
  have rk := calField_range B l.k
  refine ⟨?_, ?_, ?_, ?_, ?_, ?_, ?_, ?_, ?_⟩ <;> apply toInt_ofInt_exact <;> omega

end Sys2Proof.Machine
end

