-- ==== Sys2Proof/Laws/PerInstr.lean ====
section
/-! SUPPORT. The per-instruction family: every command's word carries its opcode and its operand in the fields of R61. -/

namespace Sys2Proof.Laws.OpcodeField

/-- The encoded word has the command's opcode in bits 39 to 32 and its operand, or what R64 and R77 put there, in bits 31 to
0 (30_encoding.md R61, R63). -/
def Statement (i : Instr) : Prop := opField (encode i) = opcodeOf i ∧ argField (encode i) = encodedArg i

theorem init : Statement .init := ⟨opField_encode _, argField_encode _⟩
theorem term : Statement .term := ⟨opField_encode _, argField_encode _⟩
theorem setEnable (arg : Word) : Statement (.setEnable arg) := ⟨opField_encode _, argField_encode _⟩
theorem getEnable : Statement .getEnable := ⟨opField_encode _, argField_encode _⟩
theorem setDelay (arg : Word) : Statement (.setDelay arg) := ⟨opField_encode _, argField_encode _⟩
theorem getDelay : Statement .getDelay := ⟨opField_encode _, argField_encode _⟩
theorem setPosition (arg : Word) : Statement (.setPosition arg) := ⟨opField_encode _, argField_encode _⟩
theorem getPosition : Statement .getPosition := ⟨opField_encode _, argField_encode _⟩
theorem setAveraging (arg : Word) : Statement (.setAveraging arg) := ⟨opField_encode _, argField_encode _⟩
theorem getAveraging : Statement .getAveraging := ⟨opField_encode _, argField_encode _⟩
theorem measure : Statement .measure := ⟨opField_encode _, argField_encode _⟩
theorem extSelfTest : Statement .extSelfTest := ⟨opField_encode _, argField_encode _⟩
theorem extSensitivity : Statement .extSensitivity := ⟨opField_encode _, argField_encode _⟩
theorem extNoiseTest : Statement .extNoiseTest := ⟨opField_encode _, argField_encode _⟩
theorem extGetRaw : Statement .extGetRaw := ⟨opField_encode _, argField_encode _⟩
theorem extGetHwOffset : Statement .extGetHwOffset := ⟨opField_encode _, argField_encode _⟩

end Sys2Proof.Laws.OpcodeField
end

