-- ==== Sys2Proof/Laws/Stable.lean ====
section
/-! SUPPORT. What each procedure leaves alone, said once: a property closed under the register writes of a procedure survives
the procedure, wherever it ends (`Proc.Stable`). A frame of a command follows with the property "this register is as it
    was". -/

namespace Sys2Proof.Machine

/-- A choice made before the state is read. -/
theorem Proc.ite_stable {α} {I : State → Prop} {c : Prop} [Decidable c] {p q : Proc α} (hp : Proc.Stable I p) (hq :
    Proc.Stable I q) : Proc.Stable I (if c then p else q) := by
  split <;> assumption

/-- Closed under bus bookkeeping, BUSOPEN and ENABLE. -/
structure BusKept (I : State → Prop) : Prop where
  adv : ∀ s n e, I s → I (advance s n e)
  bo : ∀ s b, I s → I { s with busOpen := b }
  en : ∀ s b, I s → I { s with enable := b }

/-- Closed under what the reset-and-decode procedure writes besides. -/
structure LoadKept (I : State → Prop) : Prop extends BusKept I where
  c0 : ∀ s B, I s → I (commitV0 B s)
  c1 : ∀ s B, I s → I (commitV1 B s)
  rm : ∀ s, I s → I (resetMeasurement s)

/-- Closed under what P_SAMPLE writes. -/
structure SampleKept (I : State → Prop) : Prop where
  adv : ∀ s n e, I s → I (advance s n e)
  sm : ∀ s D, I s → I (sampled D s)
variable {I : State → Prop}

/-- A choice made on the state. -/
theorem Proc.branch_stable {α} {c : State → Prop} [∀ s, Decidable (c s)] {p q : State → Proc α} (hp : ∀ s, I s →
    Proc.Stable I (p s)) (hq : ∀ s, I s → Proc.Stable I (q s)) : Proc.Stable I (fun s => if c s then p s s else q s s) := by
  intro s t hs; dsimp only; split
  · exact hp s hs s t hs
  · exact hq s hs s t hs

/-- An answer read off the state, with a register write that cannot fail. -/
theorem Proc.answer_stable {α} {f : State → State} {g : State → α} (h : ∀ s, I s → I (f s)) : Proc.Stable I (fun s =>
    Res.ok (g s) (f s)) := by
  intro s t hs; constructor <;> intro _ hp <;> cases hp; exact h s hs

theorem BusKept.closeBus (h : BusKept I) : Proc.Stable I primBusClose := primBusClose_stable fun s hs => h.bo _ false
    (h.adv s _ _ hs)

theorem BusKept.openBus (h : BusKept I) : Proc.Stable I primBusOpen := primBusOpen_stable fun s hs => h.bo _ _ (h.adv s _
    _ hs)

theorem pContStart_stable (ha : ∀ s n e, I s → I (advance s n e)) : Proc.Stable I pContStart := by
  intro s t hs
  unfold pContStart
  exact Proc.andThen_stable (primMemWrite_stable ha _ _) (primSleep_stable ha _) s t hs

theorem LoadKept.caldec (h : LoadKept I) (B) : Proc.Stable I (uCaldec B) := by
  unfold uCaldec
  intro s t hs
  dsimp only
  split
  · exact raise_stable I _ s t hs
  split
  · exact Proc.andThen_stable (writeAll_stable h.adv _) (Proc.modify_stable fun s hs => h.c0 s B hs) s t hs
  split
  · exact Proc.andThen_stable (writeAll_stable h.adv _) (Proc.modify_stable fun s hs => h.c1 s B hs) s t hs
  · exact raise_stable I _ s t hs

theorem LoadKept.resetDecode (h : LoadKept I) : Proc.Stable I pResetDecode := by
  intro s t hs
  unfold pResetDecode
  exact (show Proc.Stable I _ from Proc.andThen_stable (primMemWrite_stable h.adv _ _) (Proc.andThen_stable
      (primSleep_stable h.adv _) (Proc.bind_stable (primMemRead_stable h.adv _ _) fun B =>
    Proc.andThen_stable (h.caldec B) (Proc.andThen_stable (primMemWrite_stable h.adv _ _) (Proc.andThen_stable
        (primMemWrite_stable h.adv _ _) (Proc.modify_stable h.rm)))))) s t hs

theorem LoadKept.enable (h : LoadKept I) : Proc.Stable I pEnable := by
  unfold pEnable
  refine Proc.andThen_stable h.toBusKept.openBus (Proc.bind_stable (Proc.attempt_stable (Proc.andThen_stable
      h.resetDecode (pContStart_stable h.adv))) fun e => ?_)
  cases e with
  | ok _ => exact Proc.modify_stable fun s hs => h.en s _ hs
  | error k => exact Proc.andThen_stable (Proc.ignore_stable h.toBusKept.closeBus) (raise_stable I k)

theorem BusKept.disable (h : BusKept I) : Proc.Stable I pDisable := by
  intro s t hs
  unfold pDisable
  exact (show Proc.Stable I _ from Proc.bind_stable (Proc.attempt_stable (primMemWrite_stable h.adv _ _)) fun e1 =>
      Proc.bind_stable (Proc.attempt_stable h.closeBus) fun e2 =>
    Proc.andThen_stable (Proc.modify_stable fun s hs => h.en s _ hs) (Proc.andThen_stable (reraise_stable I _)
        (reraise_stable I _))) s t hs

theorem LoadKept.reapply (h : LoadKept I) : Proc.Stable I reapplyIfEnabled := by
  unfold reapplyIfEnabled
  exact Proc.branch_stable (c := fun s => s.enable = true) (p := fun _ => pReapply.andThen (Proc.pure okEmpty)) (q := fun
      _ => Proc.pure okEmpty)
    (fun _ _ => Proc.andThen_stable (Proc.andThen_stable h.toBusKept.disable h.enable) (Proc.pure_stable I _)) (fun _ _
        => Proc.pure_stable I _)

theorem SampleKept.sample (h : SampleKept I) : Proc.Stable I pSample := by
  intro s t hs
  unfold pSample
  exact (show Proc.Stable I _ from Proc.bind_stable (primMemRead_stable h.adv _ _) fun D => Proc.modify_stable fun s hs
      => h.sm s D hs) s t hs

theorem SampleKept.shot (h : SampleKept I) (a b) : Proc.Stable I (pSingleShot a b) := by
  intro s t hs
  unfold pSingleShot
  refine (show Proc.Stable I _ from Proc.andThen_stable (primMemWrite_stable h.adv _ _) (Proc.andThen_stable
      (primSleep_stable h.adv _) (Proc.andThen_stable h.sample ?_))) s t hs
  exact Proc.branch_stable (c := fun s => s.raw.busy = true) (p := fun _ => raise .busy) (q := fun _ => Proc.pure ())
      (fun _ _ => raise_stable I _) (fun _ _ => Proc.pure_stable I _)

theorem checkMask_stable (m) : Proc.Stable I (checkMask m) := by
  unfold checkMask; exact Proc.ite_stable (raise_stable I _) (Proc.ite_stable (raise_stable I _) (Proc.pure_stable I _))

theorem BusKept.restore (h : BusKept I) (was) : Proc.Stable I (pRestore was) := by
  unfold pRestore
  refine Proc.ite_stable (Proc.ignore_stable (pContStart_stable h.adv)) (Proc.andThen_stable ?_ (Proc.modify_stable fun s
      hs => h.en s _ hs))
  unfold releaseBus
  exact Proc.branch_stable (c := fun s => s.busOpen = true) (p := fun s => (primMemWrite s.cfg.dev.regSrst
      s.cfg.dev.valSrst).ignore.andThen primBusClose.ignore) (q := fun _ => Proc.pure ())
    (fun _ _ => Proc.andThen_stable (Proc.ignore_stable (primMemWrite_stable h.adv _ _)) (Proc.ignore_stable h.closeBus))
        (fun _ _ => Proc.pure_stable I _)

theorem judgeDirection_stable (hc : ∀ s, I s → I (uConv s)) : Proc.Stable I judgeDirection := by
  intro s t hs
  unfold judgeDirection
  refine (show Proc.Stable I _ from Proc.andThen_stable (checkMask_stable _) (Proc.andThen_stable (Proc.modify_stable hc)
      ?_)) s t hs
  intro s t hs
  unfold directionResult
  exact (show Proc.Stable I _ from Proc.ite_stable (raise_stable I _) (Proc.pure_stable I _)) s t hs

theorem selfTest_stable (h : LoadKept I) (h2 : SampleKept I) (hc : ∀ s, I s → I (uConv s)) (was) : Proc.Stable I
    ((selfTestBody was).withCleanup (pRestore was)) := by
  refine Proc.withCleanup_stable ?_ (h.toBusKept.restore was)
  unfold selfTestBody
  refine Proc.andThen_stable (Proc.ite_stable (Proc.pure_stable I _) h.toBusKept.openBus) (Proc.andThen_stable
      (Proc.andThen_stable h.resetDecode (h2.shot _ _)) (judgeDirection_stable hc))

theorem twoShots_stable (h2 : SampleKept I) (hl : ∀ s d, I s → I (uLinearAcc d s)) : Proc.Stable I twoShots := by
  unfold twoShots
  refine Proc.andThen_stable (h2.shot _ _) ?_
  intro s t hs
  refine (show Proc.Stable I _ from Proc.andThen_stable (h2.shot _ _) ?_) s t hs
  intro s t hs
  unfold sensResult
  exact (show Proc.Stable I _ from Proc.andThen_stable (Proc.modify_stable fun s hs => hl s _ hs) (Proc.andThen_stable
      (checkMask_stable _) (Proc.pure_stable I _))) s t hs

theorem sensitivity_stable (h : LoadKept I) (h2 : SampleKept I) (hl : ∀ s d, I s → I (uLinearAcc d s)) (was) :
    Proc.Stable I ((sensitivityBody was).withCleanup (pRestore was)) := by
  refine Proc.withCleanup_stable ?_ (h.toBusKept.restore was)
  unfold sensitivityBody
  exact Proc.andThen_stable (Proc.ite_stable (Proc.pure_stable I _) (Proc.andThen_stable h.toBusKept.openBus
      h.resetDecode)) (twoShots_stable h2 hl)

/-- EXT_SENSITIVITY on an enabled session reloads nothing. -/
theorem sensitivity_enabled_stable (h : BusKept I) (h2 : SampleKept I) (hl : ∀ s d, I s → I (uLinearAcc d s)) :
    Proc.Stable I ((sensitivityBody true).withCleanup (pRestore true)) := by
  refine Proc.withCleanup_stable ?_ (h.restore true)
  exact Proc.andThen_stable (Proc.pure_stable I _) (twoShots_stable h2 hl)

/-- Closed under what P_MEASURE writes after its clock tick; U_FSM's writes with the state they start from. -/
structure PipelineKept (I : State → Prop) : Prop extends SampleKept I where
  q : ∀ s, I s → I (quantised s)
  tm : ∀ s, I s → I (timed s)
  coil : ∀ s now, I s → s.mstate = mInitCoil → I (coilDone now s)
  nrm : ∀ s now, I s → s.mstate = mNormal → I (fsmNormal now s)
  rcd : ∀ s now, I s → s.mstate = mRecordData → I (fsmRecordData now s)

/-- Closed under what P_MEASURE writes, the clock tick among it. -/
structure MeasureKept (I : State → Prop) : Prop extends PipelineKept I where
  tk : ∀ s, I s → I (tickClock s)

theorem PipelineKept.fsm (h : PipelineKept I) (hms : ∀ a v s, I s → ∀ t, primMemWrite a v s = .ok () t → t.mstate =
    s.mstate) (now) : Proc.Stable I (uFsm now) := by
  unfold uFsm
  intro s t hs
  dsimp only
  split
  · rename_i hm
    unfold fsmInitCoil
    split
    · constructor
      · intro a hp
        cases hw : primMemWrite s.cfg.dev.regConf s.cfg.dev.valConfRcoil s with
        | ok _ u =>
          rw [Proc.andThen_ok hw] at hp; cases hp
          exact h.coil u now ((primMemWrite_stable h.adv _ _).ok hw hs) ((hms _ _ s hs u hw).trans hm)
        | err e u => rw [Proc.andThen_err hw] at hp; cases hp
        | fault f => simp [Proc.andThen, Proc.bind, hw] at hp
      · intro e hp
        cases hw : primMemWrite s.cfg.dev.regConf s.cfg.dev.valConfRcoil s with
        | ok _ u => rw [Proc.andThen_ok hw] at hp; cases hp
        | err e u => rw [Proc.andThen_err hw] at hp; cases hp; exact (primMemWrite_stable h.adv _ _).err hw hs
        | fault f => simp [Proc.andThen, Proc.bind, hw] at hp
    · exact Proc.pure_stable I _ s t hs
  split
  · rename_i hm
    constructor <;> intro _ hp <;> cases hp; exact h.rcd s now hs hm
  split
  · rename_i hm
    constructor <;> intro _ hp <;> cases hp; exact h.nrm s now hs hm
  · constructor <;> intro _ hp <;> cases hp

theorem primMemWrite_mstate : ∀ a v (s : State), ∀ t, primMemWrite a v s = .ok () t → t.mstate = s.mstate := fun a v s _ h =>
  (primMemWrite_stable (I := fun t => t.mstate = s.mstate) (fun _ _ _ h => h) a v).ok h rfl

theorem PipelineKept.pipeline (h : PipelineKept I) : Proc.Stable I
    (pSample.andThen <| (Proc.modify fun t => uQuant (uOrient (uConv t))).andThen judgeSample) := by
  have hj : Proc.Stable I judgeSample := by
    unfold judgeSample
    refine Proc.branch_stable (c := fun s => s.raw.busy = true) (p := fun _ => raise .busy) (q := fun _ => (timeNow.bind
        fun now => (uFsm now).andThen fun t => .ok (sampleResponse t.q) t)) (fun _ _ => raise_stable I _) (fun _ _ => ?_)
    refine Proc.bind_stable ?_ fun now => Proc.andThen_stable (h.fsm (fun a v s _ u ht => primMemWrite_mstate a v s u ht)
        now) (Proc.answer_stable (fun s hs => hs))
    intro s t hs; rw [timeNow_eq]; constructor <;> intro _ hp <;> cases hp; exact h.tm s hs
  exact Proc.andThen_stable h.sample (Proc.andThen_stable (Proc.modify_stable h.q) hj)

/-- What holds once the clock has ticked and survives the pipeline holds after P_MEASURE, however it ends
(45_host_commands.md R197). -/
theorem PipelineKept.afterTick (h : PipelineKept I) {s t : State} (hs : I (tickClock s)) :
    (∀ r, pMeasure s = .ok r t → I t) ∧ (∀ e, pMeasure s = .err e t → I t) := by
  unfold pMeasure
  split
  · exact Proc.pure_stable I _ _ t hs
  · exact h.pipeline _ t hs

theorem MeasureKept.measure (h : MeasureKept I) : Proc.Stable I pMeasure := fun s _ hs =>
  h.toPipelineKept.afterTick (h.tk s hs)

theorem noiseCleanup_stable (h : BusKept I) (was) : Proc.Stable I (noiseCleanup was) := by
  unfold noiseCleanup
  exact Proc.branch_stable (c := fun s => (!was && s.enable) = true) (p := fun _ => pDisable.ignore) (q := fun _ =>
      Proc.pure ()) (fun _ _ => Proc.ignore_stable h.disable) (fun _ _ => Proc.pure_stable I _)

theorem noise_stable (h : LoadKept I) (h2 : MeasureKept I) (was) : Proc.Stable I ((noiseBody was).withCleanup
    (noiseCleanup was)) := by
  refine Proc.withCleanup_stable ?_ (noiseCleanup_stable h.toBusKept was)
  unfold noiseBody
  exact Proc.andThen_stable (Proc.ite_stable (Proc.pure_stable I _) h.enable) (Proc.bind_stable h2.measure fun _ =>
      Proc.answer_stable fun s hs => hs)

theorem noise_enabled_stable (h : BusKept I) (h2 : MeasureKept I) : Proc.Stable I ((noiseBody true).withCleanup
    (noiseCleanup true)) := by
  refine Proc.withCleanup_stable ?_ (noiseCleanup_stable h true)
  exact Proc.andThen_stable (Proc.pure_stable I _) (Proc.bind_stable h2.measure fun _ => Proc.answer_stable fun s hs => hs)

/-- A command that keeps `I` in its procedure and in its response keeps `I`. -/
theorem guarded_keeps {p : Proc Response} {s t : State} (h : guarded p s = .next t) (hp : Proc.Stable I p) (hd : ∀ r u, I
    u → I (deliver r u)) (hs : I s) : I t := by
  rcases guarded_next h with ⟨_, rfl⟩ | ⟨_, ⟨a, u, hu, rfl⟩ | ⟨e, u, hu, rfl⟩⟩
  · exact hd _ _ hs
  · exact hd _ _ (hp.ok hu hs)
  · exact hd _ _ (hp.err hu hs)

end Sys2Proof.Machine
end

