-- ==== Sys2Proof/Tests/Slice0.lean ====
section
/-! SUPPORT. Tests. Every expected value is the spec's: the encodings of 30_encoding.md and the vectors of
95_test_vectors.md, named in each comment (V-…, PRG-…). The `witness_…` theorems show that the statements' hypotheses are met. -/

namespace Sys2Proof.Tests

open Sys2Proof Sys2Proof.Machine

/-! ### Small states -/

/-- The version-1 block GEN of 95. -/
def blockGen : List Byte :=
  [0x12, 0x34, 0x56, 0xAE, 0xE3, 0xB6, 0x3F, 0x21, 0xC7, 0xB7, 0x79, 0xC2, 0x05, 0xFB, 0x7F, 0xA7, 0x6A]

/-- The version-0 block V0 of 95. -/
def blockV0 : List Byte :=
  [0x11, 0x22, 0x33, 0x44, 0x55, 0x66, 0x77, 0x88, 0x99, 0xAA, 0xBB, 0xCC, 0x05, 0xFB, 0x7F, 0xA7, 0x2A]

/-- A block that is zero but for its last byte. -/
def blockLast (b : Byte) : List Byte := List.replicate 16 0 ++ [b]

/-- A block from its bytes. -/
def blockOf (l : List Byte) : CalBlock := fun i => l.getD i.val 0

/-- `n` transactions answered with success. -/
def oks (n : Nat) : List BusAnswer := List.replicate n (.done [])

/-- The answers P_RESET_DECODE takes on the block GEN: reset write, block read, ten writes, two writes. -/
def resetGen : List BusAnswer := [.done [], .done blockGen] ++ oks 12

/-- The answers P_RESET_DECODE takes on the block V0. -/
def resetV0 : List BusAnswer := [.done [], .done blockV0] ++ oks 19

/-- Sample S(0x0AAA, 0, 0, 9000, 7000, 8500) of V-ST-1. -/
def sampleA : BusAnswer := .done [0x0A, 0xAA, 0x23, 0x28, 0x1B, 0x58, 0x21, 0x34]

/-- Sample S(0x0AAA, 0, 0, 16383, 0, 8192) of V-ST-1b. -/
def sampleOver : BusAnswer := .done [0x0A, 0xAA, 0x3F, 0xFF, 0x00, 0x00, 0x20, 0x00]

/-- Sample S(0x0AAA, 0, 0, 8192, 8192, 8192) of V-ST-1c. -/
def sampleMid : BusAnswer := .done [0x0A, 0xAA, 0x20, 0x00, 0x20, 0x00, 0x20, 0x00]

/-- Sample S(0x0AAA, 0, 0, 100, 8192, 8192) of V-ST-2b, an underflow under GEN. -/
def sampleUnder : BusAnswer := .done [0x0A, 0xAA, 0x00, 0x64, 0x20, 0x00, 0x20, 0x00]

/-- Sample S(0x0100, 1, 0, 10000, 8100, 8300), busy, of PRG-2. -/
def sampleBusy : BusAnswer := .done [0x01, 0x00, 0xA7, 0x10, 0x1F, 0xA4, 0x20, 0x6C]

/-- Sample S(0x0100, 0, 0, 10000, 8100, 8300) of PRG-2, a drift. -/
def sampleDrift : BusAnswer := .done [0x01, 0x00, 0x27, 0x10, 0x1F, 0xA4, 0x20, 0x6C]

/-- Sample S(0x0100, 0, 1, 10010, 8100, 8300), bad, of PRG-2. -/
def sampleBad : BusAnswer := .done [0x01, 0x00, 0x67, 0x1A, 0x1F, 0xA4, 0x20, 0x6C]

/-- The shots of V-ST-2. -/
def shotPlus : BusAnswer := .done [0x0A, 0xAA, 0x23, 0x28, 0x21, 0x98, 0x1E, 0xDC]

/-- The second shot of V-ST-2. -/
def shotMinus : BusAnswer := .done [0x0A, 0xAA, 0x1C, 0xE8, 0x1E, 0x78, 0x21, 0x34]

/-- The model of V-CAL-2. -/
def modelGen : CorrModel := ⟨1, 0xFB, 7, 0xEC, 140, 3, 15, 0xF7, 131, 66⟩

/-- An initialised, disabled session with the environment's answers to come. -/
def session (answers : List BusAnswer) : State :=
  { State.reset with initialized := true, delay := 50, position := 2, base := ⟨8192, 8192, 8192⟩, busScript := answers }

/-- An enabled session with the model GEN. -/
def enabledGen (answers : List BusAnswer) : State :=
  { session answers with enable := true, busOpen := true, model := modelGen, hwoff := ⟨5, 0xFB, 127⟩ }

/-- An enabled session with the identity model. -/
def enabledV0 (answers : List BusAnswer) : State := { session answers with enable := true, busOpen := true }

/-- A session in InitCoil since time 5000, with the logical clock such that MEASURE sees `now`. -/
def holding (now : Word) (answers : List BusAnswer) : State :=
  { enabledV0 answers with mstate := mInitCoil, invalid := true, onset := 5000, lclk := now - 50 }

/-- A session in RecordData. -/
def recording (answers : List BusAnswer) : State :=
  { enabledV0 answers with mstate := mRecordData, invalid := true, onset := 1500, lclk := 1500, delay := 250 }

/-! ### Reading outcomes -/

/-- The response of an outcome that is a next state. -/
def answer : Host.Outcome State Fault Refusal → Option Response
  | .next t => t.response
  | .fault _ => none
  | .refused _ => none

/-- The recorded interactions of an outcome that is a next state. -/
def traffic : Host.Outcome State Fault Refusal → List Event
  | .next t => t.trace
  | .fault _ => []
  | .refused _ => []

/-- Whether the outcome is a next state with the property. -/
def holdsNext (P : State → Prop) [DecidablePred P] : Host.Outcome State Fault Refusal → Bool
  | .next t => decide (P t)
  | .fault _ => false
  | .refused _ => false

theorem next_of_holds {o : Host.Outcome State Fault Refusal} {P : State → Prop} [DecidablePred P]
    (h : holdsNext P o = true) : ∃ t, o = .next t ∧ P t := by
  cases o with
  | next t => exact ⟨t, rfl, of_decide_eq_true h⟩
  | fault f => cases h
  | refused r => cases h

theorem answersOk_of {s : State} {n : Nat} (h : ∀ k : Fin n, busOkAt s k.val = true) : AnswersOk s n :=
  fun k hk => h ⟨k, hk⟩

/-- Success with the four result words and count 0. -/
def success (r0 r1 r2 r3 : Int) : Option Response :=
  some ⟨0, 0, BitVec.ofInt 32 r0, BitVec.ofInt 32 r1, BitVec.ofInt 32 r2, BitVec.ofInt 32 r3⟩

/-- A sample: success with count 1. -/
def oneSample (q0 q1 q2 : Int) : Option Response :=
  some ⟨0, 1, BitVec.ofInt 32 q0, BitVec.ofInt 32 q1, BitVec.ofInt 32 q2, 0⟩

/-- An error with this status code. -/
def failure (code : Byte) : Option Response := some ⟨code, 0, 0, 0, 0, 0⟩

/-! ### Decoding: words written out from R61, R63, R64 -/

theorem test_decode_init : decode 0b0000000100000000000000000000000000000000#40 = .command .init := by decide
theorem test_decode_term : decode 0b0000001000000000000000000000000000000000#40 = .command .term := by decide
theorem test_decode_setEnable : decode 0b0000001100000000000000000000000000000101#40 = .command (.setEnable 5) := by decide
theorem test_decode_getEnable : decode 0b0000010000000000000000000000000000000000#40 = .command .getEnable := by decide
theorem test_decode_setDelay :
    decode 0b0000010110000000000000000000000011111010#40 = .command (.setDelay 0x800000FA) := by decide
theorem test_decode_getDelay : decode 0b0000011011111111111111111111111111111111#40 = .command .getDelay := by decide
theorem test_decode_setPosition :
    decode 0b0000011100000000000000000000000000000111#40 = .command (.setPosition 7) := by decide
theorem test_decode_getPosition : decode 0b0000100000000000000000000000000000000000#40 = .command .getPosition := by decide
theorem test_decode_setAveraging :
    decode 0b0000100100000000000000000000000000000010#40 = .command (.setAveraging 2) := by decide
theorem test_decode_getAveraging : decode 0b0000101000000000000000000000000000000000#40 = .command .getAveraging := by decide
theorem test_decode_measure : decode 0b0000101100000000000000000000000000000000#40 = .command .measure := by decide
theorem test_decode_extSelfTest : decode 0b0000110000000000000000000000000000000001#40 = .command .extSelfTest := by decide
theorem test_decode_extSensitivity :
    decode 0b0000110000000000000000000000000000000010#40 = .command .extSensitivity := by decide
theorem test_decode_extNoiseTest :
    decode 0b0000110000000000000000000000000000000011#40 = .command .extNoiseTest := by decide
theorem test_decode_extGetRaw : decode 0b0000110000000000000000000000000000000100#40 = .command .extGetRaw := by decide
theorem test_decode_extGetHwOffset :
    decode 0b0000110000000000000000000000000000000101#40 = .command .extGetHwOffset := by decide

/-- R74: the words next to the legal ones. -/
theorem test_decode_illegal :
    decode 0x0000000000#40 = .illegalOpcode 0 ∧ decode 0x0D00000007#40 = .illegalOpcode 0x0D ∧
      decode 0xFFFFFFFFFF#40 = .illegalOpcode 0xFF ∧ decode 0x0C00000000#40 = .illegalExt 0 ∧
      decode 0x0C00000006#40 = .illegalExt 6 ∧ decode 0x0C00000009#40 = .illegalExt 9 := by decide

/-- R78: the pseudo-commands. -/
theorem test_assemblePseudo :
    assemblePseudo .reenable = [0x0300000000#40, 0x0300000001#40] ∧ assemblePseudo .enable = [0x0300000001#40] ∧
      assemblePseudo .disable = [0x0300000000#40] ∧ assemblePseudo (.ext 9) = [0x0C00000009#40] := by decide

/-- The host's entry numbers the word as R61 does. -/
theorem test_decodeTableWord :
    decodeTableWord 40 0x0900000003 = some (.setAveraging 3) ∧ decodeTableWord 40 0x0C00000006 = none := by decide

/-! ### WellFormed: each check refuses an ill-formed record -/

theorem test_wf_default : defaultConfig.wf = true := by decide +kernel
theorem test_wf_orient_not_permutation :
    ({ defaultConfig with orient := defaultOrient.set 3 ⟨⟨0, 1, 0⟩, ⟨0, 1, 0⟩, ⟨0, 0, 1⟩⟩ } : Config).wf = false := by decide +kernel
theorem test_wf_orient_not_unit :
    ({ defaultConfig with orient := defaultOrient.set 0 ⟨⟨2, 0, 0⟩, ⟨0, 1, 0⟩, ⟨0, 0, 1⟩⟩ } : Config).wf = false := by decide +kernel
theorem test_wf_orient2_not_identity :
    ({ defaultConfig with orient := defaultOrient.set 2 ⟨⟨0, 1, 0⟩, ⟨1, 0, 0⟩, ⟨0, 0, 1⟩⟩ } : Config).wf = false := by decide +kernel
theorem test_wf_sensVcore : ({ defaultConfig with sensVcore := 0 } : Config).wf = false := by decide +kernel
theorem test_wf_delayDefault : ({ defaultConfig with delayDefault := 0x80000000 } : Config).wf = false := by decide +kernel
theorem test_wf_a1_high : ({ defaultConfig with a1Const := 512 } : Config).wf = false := by decide +kernel
theorem test_wf_a1_low : ({ defaultConfig with a1Const := -513 } : Config).wf = false := by decide +kernel
theorem test_wf_instr : Instr.wf (.setPosition 0xFFFFFFFF) = true := by decide +kernel

/-! ### The units, on vectors of 95 -/

/-- V-CAL-2: the nine values, the ten writes. -/
theorem test_decode_block_gen :
    decodeModel defaultLayout (blockOf blockGen) = modelGen ∧
      v1Writes defaultDev (blockOf blockGen) = [(0x93, 0x12), (0x84, 0x05), (0x94, 0x34), (0x85, 0xFB), (0x95, 0x56),
        (0x86, 0x7F), (0x96, 0xB0), (0x88, 0x14), (0x89, 0x0E), (0x9E, 0x2A)] := by decide +kernel

/-- D5: a layout may take a field's bits from anywhere. The two pieces of `a3f`, `B[4][5:0]` and `B[5][7]`, exchanged: from 71,
`35 * 2 + 1`, to `1 * 64 + 35`. -/
theorem test_split_layout :
    (decodeModel { defaultLayout with a3 := #v[56, 57, 58, 59, 60, 61, 55] } (blockOf blockGen)).a3 = 35 := by decide +kernel

/-- V-CAL-3: all zero under versions 0, 1, 3; V-CAL-6, V-CAL-7 are the smallest blocks that are not. -/
theorem test_zero_validation :
    calNonzero (blockOf (blockLast 0x00)) = false ∧ calNonzero (blockOf (blockLast 0x40)) = false ∧
      calNonzero (blockOf (blockLast 0xC0)) = false ∧ calNonzero (blockOf (blockLast 0x01)) = true := by decide +kernel

/-- V-COR-2, V-COR-4, V-COR-8: clamping, and truncation towards zero. -/
theorem test_correct :
    (uCorrect ⟨9000, 7000, 8500⟩ (enabledGen [])).c = ⟨9090, 6725, 8701⟩ ∧
      (uCorrect ⟨0, 0, 0⟩ (enabledGen [])).c = ⟨0, 74, 0⟩ ∧
      (uCorrect ⟨8191, 8192, 8192⟩ (enabledGen [])).c = ⟨8191, 8192, 8192⟩ := by decide +kernel

/-- Section 2.2: `L((1600, 800, -600)) = (1583, 630, -497)`. -/
theorem test_linear_part : linearPart (enabledGen []) ⟨1600, 800, -600⟩ = ⟨1583, 630, -497⟩ := by decide +kernel

/-- Section 2.3: masks, and V-Q-1d with OVF 0x09. -/
theorem test_quantizer :
    overflowMask ⟨16383, 0, 9775⟩ = 0x09#6 ∧ overflowMask ⟨0, 16383, 0⟩ = 0x26#6 ∧ overflowMask ⟨1, 16382, 8192⟩ = 0x00#6 ∧
      (uQuant (uOrient { enabledGen [] with position := 3, ovf := 0x09, p := ⟨269400, BitVec.ofInt 32 (-342243), 287400⟩ })).q
        = ⟨BitVec.ofInt 32 (-342239), BitVec.ofInt 32 (-269398), 287400⟩ := by decide +kernel

/-- V-FSM-12, V-FSM-12b: elapsed time modulo 2^32. -/
theorem test_elapsed : elapsedMs 0x2E8 0xFFFFFF00 = 1000 ∧ elapsedMs 0x2E7 0xFFFFFF00 = 999 := by decide

/-- V-FSM-2, V-FSM-3, V-FSM-3b: 1500 is no drift, 1501 is one, in either direction and on any axis. -/
theorem test_drift :
    drift ⟨9692, 8192, 8192⟩ ⟨8192, 8192, 8192⟩ = false ∧ drift ⟨9693, 8192, 8192⟩ ⟨8192, 8192, 8192⟩ = true ∧
      drift ⟨8192, 8192, 6691⟩ ⟨8192, 8192, 8192⟩ = true := by decide

/-- R62, V-CMD-17: the response's bytes in order. -/
theorem test_response_bits :
    responseBits ⟨0, 0, 5, 0xFFFFFFFB, 0x7F, 0⟩ = 0x000000000005FFFFFFFB0000007F00000000#144 := by decide

/-! ### One step of each command -/

/-- PRG-1 step 1. -/
theorem test_init :
    holdsNext (fun t => t.response = success 0 0 0 0 ∧ t.initialized = true ∧ t.delay = 50 ∧ t.position = 2 ∧
      t.trace = [.opened true, .read 0x80 1 (some [0x07]), .closed true])
      (exec .init { State.reset with busScript := [.done [], .done [0x07], .done []] }) = true := by decide +kernel

/-- PRG-5 row 1. -/
theorem test_init_identity :
    answer (exec .init { State.reset with busScript := [.done [], .done [0x08], .done []] }) = failure 5 := by decide +kernel

/-- PRG-3 step 21: TERM disables first. -/
theorem test_term :
    holdsNext (fun t => t.response = success 0 0 0 0 ∧ t.initialized = false ∧ t.enable = false ∧ t.busOpen = false ∧
      t.trace = [.wrote 0x90 0x02 true, .closed true]) (exec .term (enabledGen (oks 2))) = true := by decide +kernel

/-- V-CMD-19. -/
theorem test_term_uninitialized : answer (exec .term State.reset) = failure 1 := by decide

/-- PRG-1 step 2: what enabling on GEN leaves. -/
theorem test_enable :
    holdsNext (fun t => t.response = success 0 0 0 0 ∧ t.enable = true ∧ t.busOpen = true ∧ t.model = modelGen ∧
      t.hwoff = ⟨5, 0xFB, 0x7F⟩ ∧ t.trace.length = 18 ∧ t.trace.getLast? = some (.slept 2000) ∧ t.busScript = [])
      (exec (.setEnable 1) (session (oks 1 ++ resetGen ++ oks 1))) = true := by decide +kernel

/-- PRG-5 row 18: the close fails. -/
theorem test_disable_close_fails :
    holdsNext (fun t => t.response = failure 4 ∧ t.enable = false ∧ t.busOpen = false)
      (exec (.setEnable 0) (enabledGen [.done [], .fail])) = true := by decide +kernel

/-- PRG-1 step 6. -/
theorem test_getEnable : answer (exec .getEnable (enabledGen [])) = success 1 0 0 0 := by decide

/-- V-CMD-10, V-CMD-11. -/
theorem test_setDelay :
    holdsNext (fun t => t.response = success 0 0 0 0 ∧ t.delay = 0x7FFFFFFF) (exec (.setDelay 0x7FFFFFFF) (session [])) = true ∧
      answer (exec (.setDelay 0x80000000) (session [])) = failure 3 := by decide +kernel

/-- PRG-3 step 18: a toggle, the delay kept whole, the interval byte saturated. -/
theorem test_setDelay_reapplies :
    holdsNext (fun t => t.response = success 0 0 0 0 ∧ t.delay = 300 ∧ t.trace.length = 20 ∧
      Event.wrote 0x83 0xFF true ∈ t.trace)
      (exec (.setDelay 300) (enabledGen (oks 2 ++ oks 1 ++ resetGen ++ oks 1))) = true := by decide +kernel

/-- PRG-3 step 17. -/
theorem test_getDelay : answer (exec .getDelay { session [] with delay := 20 }) = success 20 0 0 0 := by decide

/-- V-CMD-7, V-CMD-8. -/
theorem test_setPosition :
    holdsNext (fun t => t.response = success 0 0 0 0 ∧ t.position = 7) (exec (.setPosition 7) (session [])) = true ∧
      holdsNext (fun t => t.response = failure 3 ∧ t.position = 2) (exec (.setPosition 0xFFFFFFFF) (session [])) = true := by decide

/-- PRG-3 step 19. -/
theorem test_getPosition : answer (exec .getPosition { session [] with position := 7 }) = success 7 0 0 0 := by decide

/-- V-CMD-9, PRG-3 step 12. -/
theorem test_setAveraging :
    holdsNext (fun t => t.response = failure 3 ∧ t.avg = 0) (exec (.setAveraging 4) (session [])) = true ∧
      holdsNext (fun t => t.response = success 0 0 0 0 ∧ t.avg = 2) (exec (.setAveraging 2) (session [])) = true := by decide

/-- PRG-5 row 12: the setting is kept, the session disabled. -/
theorem test_setAveraging_toggle_fails :
    holdsNext (fun t => t.response = failure 4 ∧ t.avg = 1 ∧ t.enable = false ∧ t.busOpen = false)
      (exec (.setAveraging 1) (enabledGen [.fail, .done []])) = true := by decide +kernel

/-- PRG-3 step 13. -/
theorem test_getAveraging : answer (exec .getAveraging { session [] with avg := 2 }) = success 2 0 0 0 := by decide

/-- PRG-1 step 3. -/
theorem test_measure :
    holdsNext (fun t => t.response = oneSample 269400 (-342240) 287400 ∧ t.lclk = 50 ∧ t.mstate = mNormal ∧ t.invalid = false)
      (exec .measure (enabledGen [sampleA])) = true := by decide +kernel

/-- PRG-2 step 5: drift, the digit 3, the onset. -/
theorem test_measure_drift :
    holdsNext (fun t => t.response = oneSample 542403 (-34637) (-4797) ∧ t.mstate = mInitCoil ∧ t.invalid = true ∧ t.onset = 500)
      (exec .measure { enabledV0 [sampleDrift] with delay := 250, lclk := 250 }) = true := by decide +kernel

/-- V-ST-1. -/
theorem test_extSelfTest :
    holdsNext (fun t => t.response = success 269 (-342) 287 0 ∧ t.enable = false ∧ t.busOpen = false ∧ t.model = modelGen ∧
      t.lastRaw = ⟨9000, 7000, 8500⟩ ∧ t.lastRawT = 2730)
      (exec .extSelfTest (session (oks 1 ++ resetGen ++ oks 1 ++ [sampleA] ++ oks 2))) = true := by decide +kernel

/-- V-ST-1b: overflow before underflow; continuous mode restarted. -/
theorem test_extSelfTest_overflow :
    holdsNext (fun t => t.response = failure 9 ∧ t.enable = true ∧
      t.trace.drop 16 = [.slept 2000, .read 0xB0 8 (some [0x0A, 0xAA, 0x3F, 0xFF, 0x00, 0x00, 0x20, 0x00]),
        .wrote 0x81 0x21 true, .slept 2000])
      (exec .extSelfTest (enabledGen (resetGen ++ oks 1 ++ [sampleOver] ++ oks 1))) = true := by decide +kernel

/-- V-ST-2. -/
theorem test_extSensitivity :
    answer (exec .extSensitivity (session (oks 1 ++ resetGen ++ oks 1 ++ [shotPlus] ++ oks 1 ++ [shotMinus] ++ oks 2)))
      = success 26383 10844 0 0 := by decide +kernel

/-- V-ST-2 under VER 0: `(26666, 13471)`; the excitation bytes 0x03 and 0x07. -/
theorem test_extSensitivity_v0 :
    holdsNext (fun t => t.response = success 26666 13471 0 0 ∧ Event.wrote 0x81 0x03 true ∈ t.trace ∧
      Event.wrote 0x81 0x07 true ∈ t.trace)
      (exec .extSensitivity (enabledV0 (oks 1 ++ [shotPlus] ++ oks 1 ++ [shotMinus] ++ oks 1))) = true := by decide +kernel

/-- V-ST-3. -/
theorem test_extNoiseTest :
    holdsNext (fun t => t.response = success 808 (-1192) 308 0 ∧ t.lclk = 50 ∧ t.enable = false ∧ t.busOpen = false)
      (exec .extNoiseTest (session (oks 1 ++ resetGen ++ oks 1 ++ [sampleA] ++ oks 2))) = true := by decide +kernel

/-- V-CMD-20, for the noise test: a busy sample. -/
theorem test_extNoiseTest_busy : answer (exec .extNoiseTest (enabledV0 [sampleBusy])) = failure 7 := by decide +kernel

/-- PRG-1 step 4. -/
theorem test_extGetRaw :
    answer (exec .extGetRaw { session [] with lastRaw := ⟨9000, 7000, 8500⟩, lastRawT := 4660 }) = success 9000 7000 8500 4660 := by
  decide

/-- V-CMD-17. -/
theorem test_extGetHwOffset : answer (exec .extGetHwOffset (enabledGen [])) = success 5 (-5) 127 0 := by decide

/-! ### Witnesses: the hypotheses of the statements are met -/

theorem witness_DecodeEncodeRoundTrip : Instr.wf (.setDelay 0xFFFFFFFF) = true := rfl

/-- Both ends of the illegal ranges of CommandMap. -/
theorem witness_CommandMap :
    (0#32).toNat = 0 ∧ 5 < (6#32).toNat ∧ 5 < (0xFFFFFFFF#32).toNat ∧ (0#8).toNat = 0 ∧ 0x0D ≤ (0x0D#8).toNat ∧
      0x0D ≤ (0xFF#8).toNat := by decide

theorem witness_DecodedWordKeepsItsBits :
    (decode 0x05FFFFFFFF#40 = .command (.setDelay 0xFFFFFFFF) ∧ ignoresArg (.setDelay 0xFFFFFFFF) = false) ∧
      (decode 0x0BFFFFFFFF#40 = .command .measure ∧ ignoresArg .measure = true) := by decide

theorem witness_StepRunsDecodedCommand :
    ({ session [] with port := [0x0700000007#40] } : State).port = 0x0700000007#40 :: [] ∧
      decode 0x0700000007#40 = .command (.setPosition 7) ∧ Instr.wf (.setPosition 7) = true := by decide

/-- Each clause of StepAnswersIllegalWords, at both ends of its range. -/
theorem witness_StepAnswersIllegalWords :
    ((opField 0x0000000000#40).toNat = 0 ∧ 0x0D ≤ (opField 0x0D00000007#40).toNat) ∧
      (opField 0x0C00000000#40 = 0x0C#8 ∧ (argField 0x0C00000000#40).toNat = 0 ∧ (session []).initialized = true) ∧
      (opField 0x0C00000006#40 = 0x0C#8 ∧ 5 < (argField 0x0C00000006#40).toNat ∧ State.reset.initialized = false) ∧
      ({ session [] with port := [0x0C00000000#40] } : State).port = 0x0C00000000#40 :: [] ∧
      ({ State.reset with port := [0x0C00000006#40] } : State).port = 0x0C00000006#40 :: [] := by decide

theorem modelGen_inRange : ModelInRange modelGen :=
  ⟨by decide, by decide, by decide, by decide, by decide, by decide, by decide, by decide, by decide⟩

theorem session_inv (answers : List BusAnswer) : SessionInv (session answers) :=
  ⟨test_wf_default, nofun, rfl, nofun, (by decide : (50#32).toNat < 2 ^ 31), nofun⟩

theorem enabledGen_inv (answers : List BusAnswer) : SessionInv (enabledGen answers) :=
  ⟨test_wf_default, fun _ => rfl, rfl, nofun, (by decide : (50#32).toNat < 2 ^ 31), fun _ => modelGen_inRange⟩

theorem enabledV0_inv (answers : List BusAnswer) : SessionInv (enabledV0 answers) :=
  ⟨test_wf_default, fun _ => rfl, rfl, nofun, (by decide : (50#32).toNat < 2 ^ 31), nofun⟩

/-- An enabled session with a MEASURE pending. -/
def pendingMeasure : State := { enabledGen [sampleA] with port := [0x0B00000000#40] }

theorem pendingMeasure_inv : SessionInv pendingMeasure :=
  ⟨test_wf_default, fun _ => rfl, rfl, nofun, (by decide : (50#32).toNat < 2 ^ 31), fun _ => modelGen_inRange⟩

theorem witness_StepKeepsSessionInv :
    ∃ s t, SessionInv s ∧ step s = .next t ∧ t.mstate = mNormal ∧ t.response = oneSample 269400 (-342240) 287400 := by
  obtain ⟨t, h⟩ := next_of_holds (P := fun t => t.mstate = mNormal ∧ t.response = oneSample 269400 (-342240) 287400)
    (o := step pendingMeasure) (by decide +kernel)
  exact ⟨pendingMeasure, t, pendingMeasure_inv, h⟩

theorem witness_StepKeepsFsmCoherence :
    ∃ s t, FsmCoherent s ∧ step s = .next t ∧ t.mstate = mInitCoil ∧ t.invalid = true :=
  have ⟨t, h⟩ := next_of_holds (P := fun t => t.mstate = mInitCoil ∧ t.invalid = true)
    (o := step { enabledV0 [sampleDrift] with port := [0x0B00000000#40] }) (by decide +kernel)
  ⟨_, t, by unfold FsmCoherent; decide, h⟩

theorem witness_SessionNeverStops : SessionInv (enabledGen [sampleA]) := enabledGen_inv _

theorem witness_UnreadRegistersCarryNothing :
    forgetUnread (session []) = forgetUnread { session [] with c := ⟨1, 2, 3⟩, acc := 7, model := { (session []).model with k := 9 } } ∧
      session [] ≠ { session [] with c := ⟨1, 2, 3⟩, acc := 7, model := { (session []).model with k := 9 } } := by decide

/-- A data read that succeeds and one that fails, for SampleFieldsParsed. -/
theorem witness_SampleFieldsParsed :
    ((enabledGen [sampleA]).busOpen = true ∧ busOkAt (enabledGen [sampleA]) 0 = true) ∧
      ((enabledGen [.fail]).busOpen = true ∧ busOkAt (enabledGen [.fail]) 0 = false) := ⟨⟨rfl, rfl⟩, ⟨rfl, rfl⟩⟩

/-- Both clauses of InvalidBlockChangesNothing, at the boundary of each. -/
theorem witness_InvalidBlockChangesNothing :
    ((∀ i : Fin 17, i.val < 16 → blockOf (blockLast 0x40) i = 0) ∧ (blockOf (blockLast 0x40) 16).toNat % 64 = 0) ∧
      128 ≤ (blockOf (blockLast 0x80) 16).toNat ∧ 128 ≤ (blockOf (blockGen.dropLast ++ [0xAA]) 16).toNat := by decide +kernel

/-- How a procedure failed, if it did. -/
def errorOf {α : Type} : Res α → Option (ErrKind × State)
  | .ok _ _ => none
  | .err e s => some (e, s)
  | .fault _ => none

/-- V-CAL-11: the third write fails. -/
theorem witness_FailedDecodeCommitsNothing :
    ∃ s t B e, uCaldec B s = .err e t ∧ s.model = modelGen :=
  have h : ∃ x, errorOf (uCaldec (blockOf blockGen) (enabledGen (oks 2 ++ [.fail]))) = some x :=
    Option.isSome_iff_exists.mp (by decide +kernel)
  match hr : uCaldec (blockOf blockGen) (enabledGen (oks 2 ++ [.fail])) with
  | .err e t => ⟨_, t, _, e, hr, rfl⟩
  | .ok _ _ => by rw [hr] at h; simp [errorOf] at h
  | .fault _ => by rw [hr] at h; simp [errorOf] at h

/-- The second clause of FailedDecodeCommitsNothing at both ends of its range: the first and the last of the ten writes. -/
theorem witness_FailedDecodeCommitsNothing_write :
    ∀ k : Nat, k = 0 ∨ k = 9 → ∃ (s : State) (B : CalBlock) (ws : List (Byte × Byte)) (f : State → State),
      k < ws.length ∧ s.busOpen = true ∧ Accepts s B ws f ∧ AnswersOk s k ∧ busOkAt s k = false := by
  rintro k (rfl | rfl)
  · exact ⟨enabledGen [.fail], blockOf blockGen, _, _, by decide +kernel, rfl, .v1 (by decide +kernel) (by decide +kernel),
      answersOk_of (by decide +kernel), rfl⟩
  · exact ⟨enabledGen (oks 9 ++ [.fail]), blockOf blockGen, _, _, by decide +kernel, rfl,
      .v1 (by decide +kernel) (by decide +kernel), answersOk_of (by decide +kernel), rfl⟩

/-- The two commits of DecodedFieldsOfBlock, each with the smallest block that is not all zero (V-CAL-6, V-CAL-7) and with byte
16 at the end of its range. -/
theorem witness_DecodedFieldsOfBlock :
    (∀ b : Byte, b = 0x01 ∨ b = 0x3F → ∃ (s : State) (B : CalBlock), s.busOpen = true ∧ (B 16).toNat % 64 ≠ 0 ∧ B 16 = b ∧
      (B 16).toNat < 64 ∧ AnswersOk s 17) ∧
    (∀ b : Byte, b = 0x41 ∨ b = 0x7F → ∃ (s : State) (B : CalBlock), s.busOpen = true ∧ (B 16).toNat % 64 ≠ 0 ∧ B 16 = b ∧
      64 ≤ (B 16).toNat ∧ (B 16).toNat < 128 ∧ AnswersOk s 10) ∧
    (∃ (s : State) (B : CalBlock), s.busOpen = true ∧ (∃ i : Fin 17, i.val < 16 ∧ B i ≠ 0) ∧ (B 16).toNat < 64 ∧
      AnswersOk s 17) := by
  refine ⟨?_, ?_, enabledGen (oks 17), blockOf blockV0, rfl, by decide +kernel, by decide +kernel, answersOk_of (by decide +kernel)⟩
  · rintro b (rfl | rfl)
    · exact ⟨enabledGen (oks 17), blockOf (blockLast 0x01), rfl, by decide, rfl, by decide, answersOk_of (by decide +kernel)⟩
    · exact ⟨enabledGen (oks 17), blockOf (blockLast 0x3F), rfl, by decide, rfl, by decide, answersOk_of (by decide +kernel)⟩
  · rintro b (rfl | rfl)
    · exact ⟨enabledGen (oks 10), blockOf (blockLast 0x41), rfl, by decide, rfl, by decide, by decide, answersOk_of (by decide +kernel)⟩
    · exact ⟨enabledGen (oks 10), blockOf (blockLast 0x7F), rfl, by decide, rfl, by decide, by decide, answersOk_of (by decide +kernel)⟩

/-- Whether a procedure without a result succeeded. -/
def succeeded : Res Unit → Bool
  | .ok _ _ => true
  | .err _ _ => false
  | .fault _ => false

theorem ended_of {p : Res Unit} (h : succeeded p = true) : ∃ u, p = .ok () u := by
  cases p with
  | ok a u => exact ⟨u, rfl⟩
  | err e u => cases h
  | fault f => cases h

theorem witness_CorrectionMatchesFormula :
    (enabledV0 []).model.ver = 0#1 ∧
      ((enabledGen []).model.ver = 1#1 ∧ (enabledGen []).cfg.wf = true ∧ ModelInRange (enabledGen []).model) :=
  ⟨rfl, rfl, test_wf_default, modelGen_inRange⟩

/-- Both clauses of LinearPartExact, with the widest differences. -/
theorem witness_LinearPartExact :
    (enabledV0 []).model.ver = 0#1 ∧
      ((enabledGen []).model.ver = 1#1 ∧ (enabledGen []).cfg.wf = true ∧ ModelInRange (enabledGen []).model ∧
        (-16383 : Int) ≤ -16383 ∧ (16383 : Int) ≤ 16383) :=
  ⟨rfl, rfl, test_wf_default, modelGen_inRange, by decide, by decide⟩

/-- The widest physical values, at position 2 and at another. -/
theorem witness_OrientationIsSignedPermutation :
    ∃ s : State, s.cfg.wf = true ∧ (∀ i : Fin 3, (s.p.get i).toInt.natAbs ≤ 4915200) ∧ s.position = 2#3 ∧ s.p.c2.toInt = 4915200 :=
  ⟨{ session [] with p := ⟨BitVec.ofInt 32 (-2457600), 0, 4915200⟩ }, test_wf_default, by decide +kernel, rfl, by decide +kernel⟩

/-- Every position has a state with the default table and a widest physical value. -/
theorem witness_DefaultOrientationTable :
    ∀ k : BitVec 3, ∃ s : State, s.cfg.orient = defaultOrient ∧ (∀ i : Fin 3, (s.p.get i).toInt.natAbs ≤ 4915200) ∧
      s.position = k ∧ s.p.c0.toInt = -2457600 :=
  fun k => ⟨{ session [] with p := ⟨BitVec.ofInt 32 (-2457600), 173, 4915200⟩, position := k }, rfl,
    (by decide +kernel : ∀ i : Fin 3,
      ((Tri.mk (BitVec.ofInt 32 (-2457600)) (173 : Word) (4915200 : Word)).get i).toInt.natAbs ≤ 4915200),
    rfl, (by decide +kernel : (BitVec.ofInt 32 (-2457600)).toInt = -2457600)⟩

/-- An overflow, an underflow and neither, with a negative value. -/
theorem witness_QuantisedDigitRecovered :
    ∃ s : State, s.ovf = overflowMask s.c ∧ (∀ i : Fin 3, (s.v.get i).toInt.natAbs ≤ 4915200) ∧
      (s.c.get 0).toNat = 16383 ∧ (s.c.get 1).toNat = 0 ∧ s.v.c1.toInt = -342243 :=
  ⟨{ session [] with c := ⟨16383, 0, 9775⟩, ovf := 0x09, v := ⟨4915200, BitVec.ofInt 32 (-342243), 0⟩ },
    by decide, by decide +kernel, by decide, by decide, by decide +kernel⟩

/-- A sample with digits 0, and one with digits 3. -/
theorem witness_MeasuredDigitsAreLegal :
    (∃ s t r, SessionInv s ∧ exec .measure s = .next t ∧ t.response = some r ∧ r.count = 1) ∧
      (∃ s t r, SessionInv s ∧ exec .measure s = .next t ∧ t.response = some r ∧ r.count = 1 ∧ digitOf (t.q.get 0) = 3) := by
  obtain ⟨t, h, hr⟩ := next_of_holds (P := fun t => t.response = oneSample 269400 (-342240) 287400)
    (o := exec .measure (enabledGen [sampleA])) (by decide +kernel)
  obtain ⟨u, g, gr, gd⟩ := next_of_holds
    (P := fun t => t.response = oneSample 542403 (-34637) (-4797) ∧ digitOf (t.q.get 0) = 3)
    (o := exec .measure (enabledV0 [sampleDrift])) (by decide +kernel)
  exact ⟨⟨_, t, _, enabledGen_inv _, h, hr, rfl⟩, ⟨_, u, _, enabledV0_inv _, g, gr, rfl, gd⟩⟩

theorem witness_MeasureDisabledAnswersNoData : (session []).initialized = true ∧ (session []).enable = false := ⟨rfl, rfl⟩

/-- Sample S(0x0AAA, 0, 0, x, 8192, 8192). -/
def sampleX (x : BitVec 16) : BusAnswer :=
  .done [0x0A, 0xAA, x.extractLsb' 8 8, x.extractLsb' 0 8, 0x20, 0x00, 0x20, 0x00]

/-- Sample S(0x0AAA, 0, 0, 8192, 8192, 6691). -/
def sampleLow : BusAnswer := .done [0x0A, 0xAA, 0x20, 0x00, 0x20, 0x00, 0x1A, 0x23]

/-- How far a corrected word of the coming sample is from its baseline. -/
def distance (s : State) (i : Fin 3) : Nat := ((((measured s).c.get i).toNat : Int) - ((s.base.get i).toNat : Int)).natAbs

/-- The first two clauses of MeasureInNormal at differences 1500 and 1501 (V-FSM-2, V-FSM-3), the second also below the baseline
on the last axis (V-FSM-3b), and the third. -/
theorem witness_MeasureInNormal :
    (SampleReady (enabledV0 [sampleX 0x25DC]) ∧ (enabledV0 [sampleX 0x25DC]).mstate = 0#2 ∧
      (∀ i : Fin 3, distance (enabledV0 [sampleX 0x25DC]) i ≤ 1500) ∧ distance (enabledV0 [sampleX 0x25DC]) 0 = 1500 ∧
      (measured (enabledV0 [sampleX 0x25DC])).ovf = 0#6) ∧
    (SampleReady (enabledV0 [sampleX 0x25DD]) ∧ (enabledV0 [sampleX 0x25DD]).mstate = 0#2 ∧
      distance (enabledV0 [sampleX 0x25DD]) 0 = 1501 ∧ (measured (enabledV0 [sampleX 0x25DD])).ovf = 0#6) ∧
    (SampleReady (enabledV0 [sampleLow]) ∧ (enabledV0 [sampleLow]).mstate = 0#2 ∧
      distance (enabledV0 [sampleLow]) 2 = 1501 ∧ (measured (enabledV0 [sampleLow])).ovf = 0#6) ∧
    (SampleReady (enabledV0 [sampleOver]) ∧ (enabledV0 [sampleOver]).mstate = 0#2 ∧
      (measured (enabledV0 [sampleOver])).ovf ≠ 0#6) := by
  unfold SampleReady; decide +kernel

/-- The three clauses of MeasureInInitCoil at elapsed 999 and 1000 milliseconds. -/
theorem witness_MeasureInInitCoil :
    (SampleReady (holding 5999 [sampleMid]) ∧ (holding 5999 [sampleMid]).mstate = 1#2 ∧
      (measureTime (holding 5999 [sampleMid]) - (holding 5999 [sampleMid]).onset).toNat = 999) ∧
    (SampleReady (holding 6000 ([sampleMid] ++ oks 1)) ∧ (holding 6000 ([sampleMid] ++ oks 1)).mstate = 1#2 ∧
      (measureTime (holding 6000 ([sampleMid] ++ oks 1)) - (holding 6000 ([sampleMid] ++ oks 1)).onset).toNat = 1000 ∧
      busOkAt (holding 6000 ([sampleMid] ++ oks 1)) 1 = true) ∧
    (SampleReady (holding 6000 [sampleMid, .fail]) ∧ busOkAt (holding 6000 [sampleMid, .fail]) 1 = false) ∧
    (holding 6000 []).cfg.initCoilTimeoutMs = 1000 := by
  unfold SampleReady; decide +kernel

theorem witness_MeasureInRecordData :
    (SampleReady (recording [sampleBad]) ∧ (recording [sampleBad]).mstate = 2#2 ∧
      (measured (recording [sampleBad])).raw.bad = true) ∧
    (SampleReady (recording [sampleDrift]) ∧ (measured (recording [sampleDrift])).raw.bad = false ∧
      (measured (recording [sampleDrift])).ovf = 0#6) ∧
    (SampleReady (recording [sampleOver]) ∧ (measured (recording [sampleOver])).raw.bad = false ∧
      (measured (recording [sampleOver])).ovf ≠ 0#6) := by
  unfold SampleReady; decide +kernel

theorem witness_MeasureBusyOrReadFails :
    (∃ s : State, s.initialized = true ∧ s.enable = true ∧ s.busOpen = true ∧ busOkAt s 0 = true ∧
      (parseSample (sampleAt s 0)).busy = true) ∧
    (∃ s : State, s.initialized = true ∧ s.enable = true ∧ s.busOpen = true ∧ busOkAt s 0 = false) :=
  ⟨⟨enabledGen [sampleBusy], rfl, rfl, rfl, rfl, by decide +kernel⟩, ⟨enabledGen [.fail], rfl, rfl, rfl, rfl⟩⟩

/-- The clauses of LogicalClockAdvances: MEASURE without a clock; the noise test enabled, disabled with its enable succeeding
and failing; an uninitialised session; any command with a clock; a settings command; INIT. -/
theorem witness_LogicalClockAdvances :
    (∃ t, exec .measure (session []) = .next t ∧ (session []).cfg.hasClock = false ∧ (session []).initialized = true) ∧
    (∃ s t, exec .extNoiseTest s = .next t ∧ s.initialized = true ∧ s.cfg.hasClock = false ∧ s.enable = true) ∧
    (∃ s t u, exec .extNoiseTest s = .next t ∧ s.initialized = true ∧ s.cfg.hasClock = false ∧ s.enable = false ∧
      pEnable s = .ok () u) ∧
    (∃ s t e u, exec .extNoiseTest s = .next t ∧ s.initialized = true ∧ s.cfg.hasClock = false ∧ s.enable = false ∧
      pEnable s = .err e u) ∧
    (∃ t, exec .extNoiseTest State.reset = .next t ∧ State.reset.initialized = false) ∧
    (∃ s t, exec .measure s = .next t ∧ s.cfg.hasClock = true ∧ s.initialized = true) ∧
    (∃ t, exec (.setPosition 7) (session []) = .next t) ∧
    (∃ s t, exec .init s = .next t ∧ t.initialized = true ∧ s.initialized = false) := by
  obtain ⟨t1, h1, _⟩ := next_of_holds (P := fun t => t.lclk = 50) (o := exec .extNoiseTest (enabledGen [sampleA]))
    (by decide +kernel)
  obtain ⟨t2, h2, _⟩ := next_of_holds (P := fun t => t.lclk = 50)
    (o := exec .extNoiseTest (session (oks 1 ++ resetGen ++ oks 1 ++ [sampleA] ++ oks 2))) (by decide +kernel)
  obtain ⟨u, hu⟩ := ended_of (p := pEnable (session (oks 1 ++ resetGen ++ oks 1 ++ [sampleA] ++ oks 2))) (by decide +kernel)
  obtain ⟨t3, h3, _⟩ := next_of_holds (P := fun t => t.lclk = 0) (o := exec .extNoiseTest (session [.fail])) (by decide +kernel)
  obtain ⟨t, h, ht⟩ := next_of_holds (P := fun t => t.initialized = true)
    (o := exec .init { State.reset with busScript := [.done [], .done [0x07], .done []] }) (by decide +kernel)
  exact ⟨⟨_, rfl, rfl, rfl⟩, ⟨_, t1, h1, rfl, rfl, rfl⟩, ⟨_, t2, u, h2, rfl, rfl, rfl, hu⟩, ⟨_, t3, _, _, h3, rfl, rfl, rfl, rfl⟩,
    ⟨_, rfl, rfl⟩, ⟨{ session [] with cfg := { defaultConfig with hasClock := true } }, _, rfl, rfl, rfl⟩, ⟨_, rfl⟩,
    ⟨_, t, h, ht, rfl⟩⟩

theorem witness_InitCompletes :
    ∃ s : State, s.initialized = false ∧ s.busOpen = false ∧ AnswersOk s 3 ∧ busByteAt s 1 0 = s.cfg.chipId :=
  ⟨{ State.reset with busScript := [.done [], .done [0x07], .done []] }, rfl, rfl, answersOk_of (by decide), rfl⟩

/-- The four clauses of InitFailuresChangeNoRegister. -/
theorem witness_InitFailuresChangeNoRegister :
    (∃ s : State, s.initialized = false ∧ s.busOpen = false ∧ busOkAt s 0 = false) ∧
    (∃ s : State, s.initialized = false ∧ s.busOpen = false ∧ busOkAt s 0 = true ∧ busOkAt s 1 = false) ∧
    (∃ s : State, s.initialized = false ∧ s.busOpen = false ∧ busOkAt s 0 = true ∧ busOkAt s 1 = true ∧ busOkAt s 2 = false) ∧
    (∃ s : State, s.initialized = false ∧ s.busOpen = false ∧ AnswersOk s 3 ∧ busByteAt s 1 0 ≠ s.cfg.chipId) :=
  ⟨⟨{ State.reset with busScript := [.fail] }, rfl, rfl, rfl⟩,
    ⟨{ State.reset with busScript := [.done [], .fail] }, rfl, rfl, rfl, rfl⟩,
    ⟨{ State.reset with busScript := [.done [], .done [0x07], .fail] }, rfl, rfl, rfl, rfl, rfl⟩,
    ⟨{ State.reset with busScript := [.done [], .done [0x08], .done []] }, rfl, rfl, answersOk_of (by decide), by decide⟩⟩

theorem witness_LifecycleGuard :
    (Instr.setPosition 9 ≠ .init ∧ State.reset.initialized = false) ∧ (session []).initialized = true := by decide

theorem witness_TermEndsSession :
    (∃ s : State, s.initialized = true ∧ s.enable = false) ∧
    (∃ s : State, s.initialized = true ∧ s.enable = true ∧ s.busOpen = true ∧ AnswersOk s 2) ∧
    (∃ s : State, s.initialized = true ∧ s.enable = true ∧ s.busOpen = true ∧ (busOkAt s 0 && busOkAt s 1) = false) :=
  ⟨⟨session [], rfl, rfl⟩, ⟨enabledGen (oks 2), rfl, rfl, rfl, answersOk_of (by decide)⟩,
    ⟨enabledGen [.done [], .fail], rfl, rfl, rfl, rfl⟩⟩

theorem witness_SetEnableHeldValue :
    ((enabledGen []).initialized = true ∧ ((enabledGen []).enable = true ↔ (5 : Word) ≠ 0)) ∧
      ((session []).initialized = true ∧ ((session []).enable = true ↔ (0 : Word) ≠ 0)) := by decide

/-- EnableCompletes on a version-1 block. -/
theorem witness_EnableCompletes_v1 :
    ∃ (arg : Word) (s : State) (ws : List (Byte × Byte)) (f : State → State),
      s.initialized = true ∧ s.enable = false ∧ s.busOpen = false ∧ arg ≠ 0 ∧ Accepts s (blockAt s 2) ws f ∧
        AnswersOk s (ws.length + 6) :=
  ⟨1, session (oks 1 ++ resetGen ++ oks 1), _, _, rfl, rfl, rfl, by decide, .v1 (by decide +kernel) (by decide +kernel),
    answersOk_of (by decide +kernel)⟩

/-- EnableCompletes on a version-0 block. -/
theorem witness_EnableCompletes_v0 :
    ∃ (arg : Word) (s : State) (ws : List (Byte × Byte)) (f : State → State),
      s.initialized = true ∧ s.enable = false ∧ s.busOpen = false ∧ arg ≠ 0 ∧ Accepts s (blockAt s 2) ws f ∧
        AnswersOk s (ws.length + 6) :=
  ⟨0x80000000, session (oks 1 ++ resetV0 ++ oks 1), _, _, rfl, rfl, rfl, by decide, .v0 (by decide +kernel) (by decide +kernel),
    answersOk_of (by decide +kernel)⟩

/-- An all-zero block and a block of version 2. -/
theorem witness_EnableRejectsInvalidBlock :
    (∃ (arg : Word) (s : State), s.initialized = true ∧ s.enable = false ∧ s.busOpen = false ∧ arg ≠ 0 ∧ AnswersOk s 3 ∧
      calNonzero (blockAt s 2) = false) ∧
    (∃ (arg : Word) (s : State), s.initialized = true ∧ s.enable = false ∧ s.busOpen = false ∧ arg ≠ 0 ∧ AnswersOk s 3 ∧
      128 ≤ (blockAt s 2 16).toNat) :=
  ⟨⟨1, session (oks 2 ++ [.done (blockLast 0x40)]), rfl, rfl, rfl, by decide, answersOk_of (by decide), by decide +kernel⟩,
    ⟨1, session (oks 2 ++ [.done (blockLast 0x80)]), rfl, rfl, rfl, by decide, answersOk_of (by decide), by decide +kernel⟩⟩

/-- Both outcomes of EnableOutcome. -/
theorem witness_EnableOutcome :
    (∃ s t r, SessionInv s ∧ s.initialized = true ∧ s.enable = false ∧ exec (.setEnable 1) s = .next t ∧ t.response = some r ∧
      r.status = 0) ∧
    (∃ s t r, SessionInv s ∧ s.initialized = true ∧ s.enable = false ∧ exec (.setEnable 1) s = .next t ∧ t.response = some r ∧
      r.status ≠ 0) := by
  obtain ⟨t, h, hr⟩ := next_of_holds (P := fun t => t.response = success 0 0 0 0)
    (o := exec (.setEnable 1) (session (oks 1 ++ resetGen ++ oks 1))) (by decide +kernel)
  obtain ⟨u, g, gr⟩ := next_of_holds (P := fun t => t.response = failure 4)
    (o := exec (.setEnable 1) (session [.fail])) (by decide +kernel)
  exact ⟨⟨_, t, _, session_inv _, rfl, rfl, h, hr, rfl⟩, ⟨_, u, _, session_inv _, rfl, rfl, g, gr, by decide⟩⟩

theorem witness_DisableCompletes :
    (∃ s : State, s.initialized = true ∧ s.enable = true ∧ s.busOpen = true ∧ AnswersOk s 2) ∧
    (∃ s : State, s.initialized = true ∧ s.enable = true ∧ s.busOpen = true ∧ (busOkAt s 0 && busOkAt s 1) = false) :=
  ⟨⟨enabledGen (oks 2), rfl, rfl, rfl, answersOk_of (by decide)⟩, ⟨enabledGen [.fail, .done []], rfl, rfl, rfl, rfl⟩⟩

theorem witness_GettersAnswer : (session []).initialized = true ∧ State.reset.initialized = false := ⟨rfl, rfl⟩

theorem witness_SetPositionStores : (session []).initialized = true ∧ (7#32).toNat ≤ 7 ∧ 7 < (8#32).toNat := by decide

theorem witness_SettingsStoreOrReject :
    (session []).initialized = true ∧ (session []).enable = false ∧ (0x7FFFFFFF#32).toNat < 2 ^ 31 ∧
      2 ^ 31 ≤ (0x80000000#32).toNat ∧ (3#32).toNat ≤ 3 ∧ 3 < (4#32).toNat := by decide

/-- One operand meets both clauses, each at its boundary in the two words below. -/
theorem witness_SettingReappliesOnEnabledSession :
    ∃ (s : State) (ws : List (Byte × Byte)) (f : State → State),
      s.initialized = true ∧ s.enable = true ∧ s.busOpen = true ∧ Accepts s (blockAt s 4) ws f ∧ AnswersOk s (ws.length + 8) ∧
        (0x7FFFFFFF#32).toNat < 2 ^ 31 ∧ (3#32).toNat ≤ 3 :=
  ⟨enabledGen (oks 2 ++ oks 1 ++ resetGen ++ oks 1), _, _, rfl, rfl, rfl, .v1 (by decide +kernel) (by decide +kernel),
    answersOk_of (by decide +kernel), by decide, by decide⟩

/-- Both outcomes of both clauses of FailedReapplyDisables. -/
theorem witness_FailedReapplyDisables :
    (∃ s t r, SessionInv s ∧ s.initialized = true ∧ s.enable = true ∧ t.response = some r ∧
      exec (.setDelay 0x7FFFFFFF) s = .next t ∧ r.status = 0) ∧
    (∃ s t r, SessionInv s ∧ s.initialized = true ∧ s.enable = true ∧ t.response = some r ∧
      exec (.setDelay 20) s = .next t ∧ r.status ≠ 0) ∧
    (∃ s t r, SessionInv s ∧ s.initialized = true ∧ s.enable = true ∧ t.response = some r ∧
      exec (.setAveraging 3) s = .next t ∧ r.status = 0) ∧
    (∃ s t r, SessionInv s ∧ s.initialized = true ∧ s.enable = true ∧ t.response = some r ∧
      exec (.setAveraging 1) s = .next t ∧ r.status ≠ 0) := by
  obtain ⟨t1, h1, r1⟩ := next_of_holds (P := fun t => t.response = success 0 0 0 0)
    (o := exec (.setDelay 0x7FFFFFFF) (enabledGen (oks 2 ++ oks 1 ++ resetGen ++ oks 1))) (by decide +kernel)
  obtain ⟨t2, h2, r2⟩ := next_of_holds (P := fun t => t.response = failure 4)
    (o := exec (.setDelay 20) (enabledGen [.fail, .done []])) (by decide +kernel)
  obtain ⟨t3, h3, r3⟩ := next_of_holds (P := fun t => t.response = success 0 0 0 0)
    (o := exec (.setAveraging 3) (enabledGen (oks 2 ++ oks 1 ++ resetGen ++ oks 1))) (by decide +kernel)
  obtain ⟨t4, h4, r4⟩ := next_of_holds (P := fun t => t.response = failure 4)
    (o := exec (.setAveraging 1) (enabledGen [.fail, .done []])) (by decide +kernel)
  exact ⟨⟨_, t1, _, enabledGen_inv _, rfl, rfl, r1, h1, rfl⟩, ⟨_, t2, _, enabledGen_inv _, rfl, rfl, r2, h2, by decide⟩,
    ⟨_, t3, _, enabledGen_inv _, rfl, rfl, r3, h3, rfl⟩, ⟨_, t4, _, enabledGen_inv _, rfl, rfl, r4, h4, by decide⟩⟩

theorem witness_ReadbacksAnswer : (session []).initialized = true := rfl

/-- The hypotheses of SelfTestCompletesEnabled at a session. -/
def SelfTestDone (s : State) : Prop :=
  ∃ (u : State) (ws : List (Byte × Byte)) (f : State → State) (D : Fin 8 → Byte),
    s.initialized = true ∧ s.enable = true ∧ s.busOpen = true ∧ Accepts s (blockAt s 1) ws f ∧ AnswersOk s (ws.length + 6) ∧
      D = sampleAt s (ws.length + 5) ∧ (parseSample D).busy = false ∧ u = uConv (sampled D (resetMeasurement (f s))) ∧
      u.ovf = 0#6 ∧ ∃ i : Fin 3, 1000 ≤ (u.p.get i).toInt.natAbs

/-- The restart succeeds, and fails. -/
theorem witness_SelfTestCompletesEnabled :
    SelfTestDone (enabledGen (resetGen ++ oks 1 ++ [sampleA] ++ oks 1)) ∧
      SelfTestDone (enabledGen (resetGen ++ oks 1 ++ [sampleA, .fail])) :=
  ⟨⟨_, _, _, _, rfl, rfl, rfl, .v1 (by decide +kernel) (by decide +kernel), answersOk_of (by decide +kernel), rfl,
      by decide +kernel, rfl, by decide +kernel, by decide +kernel⟩,
    ⟨_, _, _, _, rfl, rfl, rfl, .v1 (by decide +kernel) (by decide +kernel), answersOk_of (by decide +kernel), rfl,
      by decide +kernel, rfl, by decide +kernel, by decide +kernel⟩⟩

theorem witness_SelfTestCompletesDisabled :
    ∃ (s u : State) (ws : List (Byte × Byte)) (f : State → State) (D : Fin 8 → Byte),
      s.initialized = true ∧ s.enable = false ∧ s.busOpen = false ∧ Accepts s (blockAt s 2) ws f ∧ AnswersOk s (ws.length + 7) ∧
        D = sampleAt s (ws.length + 6) ∧ (parseSample D).busy = false ∧ u = uConv (sampled D (resetMeasurement (f s))) ∧
        u.ovf = 0#6 ∧ ∃ i : Fin 3, 1000 ≤ (u.p.get i).toInt.natAbs :=
  ⟨session (oks 1 ++ resetV0 ++ oks 1 ++ [sampleA, .fail, .fail]), _, _, _, _, rfl, rfl, rfl,
    .v0 (by decide +kernel) (by decide +kernel), answersOk_of (by decide +kernel), rfl, by decide +kernel, rfl, by decide +kernel,
    by decide +kernel⟩

/-- The common hypotheses of SelfTestErrorsInOrder at a session, with what a clause adds. -/
def SelfTestShot (s : State) (P : Bool → State → Prop) : Prop :=
  ∃ (u : State) (k : Nat) (ws : List (Byte × Byte)) (f : State → State) (D : Fin 8 → Byte),
    s.initialized = true ∧ s.busOpen = s.enable ∧ k = (if s.enable then 1 else 2) ∧ Accepts s (blockAt s k) ws f ∧
      AnswersOk s (k + ws.length + 5) ∧ D = sampleAt s (k + ws.length + 4) ∧ u = sampled D (resetMeasurement (f s)) ∧
      P (parseSample D).busy u

/-- The four clauses of SelfTestErrorsInOrder: a busy shot; an overflow together with an underflow (V-ST-1b) and a failed
restart; an underflow alone; the zero vector (V-ST-1c). -/
theorem witness_SelfTestErrorsInOrder_enabled :
    SelfTestShot (enabledGen (resetGen ++ oks 1 ++ [sampleBusy] ++ oks 1)) (fun b _ => b = true) ∧
    SelfTestShot (enabledGen (resetGen ++ oks 1 ++ [sampleOver, .fail])) (fun b u => b = false ∧ anyOverflow u.ovf = true) ∧
    SelfTestShot (enabledGen (resetGen ++ oks 1 ++ [sampleUnder] ++ oks 1))
      (fun b u => b = false ∧ anyOverflow u.ovf = false ∧ anyUnderflow u.ovf = true) ∧
    SelfTestShot (enabledGen (resetGen ++ oks 1 ++ [sampleMid] ++ oks 1))
      (fun b u => b = false ∧ u.ovf = 0#6 ∧ ∀ i : Fin 3, ((uConv u).p.get i).toInt.natAbs < 1000) := by
  refine ⟨?_, ?_, ?_, ?_⟩ <;>
    exact ⟨_, 1, _, _, _, rfl, rfl, rfl, .v1 (by decide +kernel) (by decide +kernel), answersOk_of (by decide +kernel), rfl, rfl,
      by decide +kernel⟩

/-- The same clauses on a disabled session, one with a failed release. -/
theorem witness_SelfTestErrorsInOrder_disabled :
    SelfTestShot (session (oks 1 ++ resetGen ++ oks 1 ++ [sampleBusy] ++ oks 2)) (fun b _ => b = true) ∧
    SelfTestShot (session (oks 1 ++ resetGen ++ oks 1 ++ [sampleOver, .fail, .fail]))
      (fun b u => b = false ∧ anyOverflow u.ovf = true) ∧
    SelfTestShot (session (oks 1 ++ resetGen ++ oks 1 ++ [sampleUnder] ++ oks 2))
      (fun b u => b = false ∧ anyOverflow u.ovf = false ∧ anyUnderflow u.ovf = true) ∧
    SelfTestShot (session (oks 1 ++ resetGen ++ oks 1 ++ [sampleMid] ++ oks 2))
      (fun b u => b = false ∧ u.ovf = 0#6 ∧ ∀ i : Fin 3, ((uConv u).p.get i).toInt.natAbs < 1000) := by
  refine ⟨?_, ?_, ?_, ?_⟩ <;>
    exact ⟨_, 2, _, _, _, rfl, rfl, rfl, .v1 (by decide +kernel) (by decide +kernel), answersOk_of (by decide +kernel), rfl, rfl,
      by decide +kernel⟩

/-- The common hypotheses of SensitivityCompletesEnabled, with what a clause adds. -/
def SensitivityShots (answers : List BusAnswer) (P : State → State → Prop) : Prop :=
  ∃ s u1 u2 : State, s.initialized = true ∧ s.enable = true ∧ s.busOpen = true ∧ s.busScript = answers ∧ AnswersOk s 4 ∧
    (parseSample (sampleAt s 1)).busy = false ∧ (parseSample (sampleAt s 3)).busy = false ∧ u1 = sampled (sampleAt s 1) s ∧
    u2 = sampled (sampleAt s 3) u1 ∧ P u1 u2

/-- V-ST-2 (the differences `d` and `h` and the events are defined by equations and always exist), an overflow in the second
shot with a failed restart, and V-ST-2b. -/
theorem witness_SensitivityCompletesEnabled :
    SensitivityShots (oks 1 ++ [shotPlus] ++ oks 1 ++ [shotMinus] ++ oks 1) (fun u1 u2 => u1.ovf = 0#6 ∧ u2.ovf = 0#6) ∧
    SensitivityShots (oks 1 ++ [shotPlus] ++ oks 1 ++ [sampleOver, .fail])
      (fun u1 u2 => (anyOverflow u1.ovf || anyOverflow u2.ovf) = true) ∧
    SensitivityShots (oks 1 ++ [sampleUnder] ++ oks 1 ++ [sampleA] ++ oks 1)
      (fun u1 u2 => (anyOverflow u1.ovf || anyOverflow u2.ovf) = false ∧ (anyUnderflow u1.ovf || anyUnderflow u2.ovf) = true) := by
  refine ⟨?_, ?_, ?_⟩ <;>
    exact ⟨enabledGen _, _, _, rfl, rfl, rfl, rfl, answersOk_of (by decide +kernel), by decide +kernel, by decide +kernel, rfl, rfl,
      by decide +kernel⟩

/-- The common hypotheses of SensitivityCompletesDisabled, with what a clause adds. -/
def SensitivityReloaded (answers : List BusAnswer) (P : State → State → Prop) : Prop :=
  ∃ (s u1 u2 : State) (ws : List (Byte × Byte)) (f : State → State),
    s.initialized = true ∧ s.enable = false ∧ s.busOpen = false ∧ s.busScript = answers ∧ Accepts s (blockAt s 2) ws f ∧
      AnswersOk s (ws.length + 9) ∧ (parseSample (sampleAt s (ws.length + 6))).busy = false ∧
      (parseSample (sampleAt s (ws.length + 8))).busy = false ∧
      u1 = sampled (sampleAt s (ws.length + 6)) (resetMeasurement (f s)) ∧ u2 = sampled (sampleAt s (ws.length + 8)) u1 ∧ P u1 u2

theorem witness_SensitivityCompletesDisabled :
    SensitivityReloaded (oks 1 ++ resetGen ++ oks 1 ++ [shotPlus] ++ oks 1 ++ [shotMinus] ++ oks 2)
      (fun u1 u2 => u1.ovf = 0#6 ∧ u2.ovf = 0#6) ∧
    SensitivityReloaded (oks 1 ++ resetGen ++ oks 1 ++ [sampleOver] ++ oks 1 ++ [shotMinus, .fail, .fail])
      (fun u1 u2 => (anyOverflow u1.ovf || anyOverflow u2.ovf) = true) ∧
    SensitivityReloaded (oks 1 ++ resetGen ++ oks 1 ++ [sampleUnder] ++ oks 1 ++ [sampleA] ++ oks 2)
      (fun u1 u2 => (anyOverflow u1.ovf || anyOverflow u2.ovf) = false ∧ (anyUnderflow u1.ovf || anyUnderflow u2.ovf) = true) := by
  refine ⟨?_, ?_, ?_⟩ <;>
    exact ⟨session _, _, _, _, _, rfl, rfl, rfl, rfl, .v1 (by decide +kernel) (by decide +kernel), answersOk_of (by decide +kernel),
      by decide +kernel, by decide +kernel, rfl, rfl, by decide +kernel⟩

/-- A MEASURE that answers a sample and one that answers Busy. -/
theorem witness_NoiseTestMirrorsMeasure :
    (∃ s t r, s.initialized = true ∧ s.enable = true ∧ exec .measure s = .next t ∧ t.response = some r ∧ r.status = 0) ∧
    (∃ s t r, s.initialized = true ∧ s.enable = true ∧ exec .measure s = .next t ∧ t.response = some r ∧ r.status ≠ 0) := by
  obtain ⟨t, h, hr⟩ := next_of_holds (P := fun t => t.response = oneSample 269400 (-342240) 287400)
    (o := exec .measure (enabledGen [sampleA])) (by decide +kernel)
  obtain ⟨u, g, gr⟩ := next_of_holds (P := fun t => t.response = failure 7)
    (o := exec .measure (enabledGen [sampleBusy])) (by decide +kernel)
  exact ⟨⟨_, t, _, rfl, rfl, h, hr, rfl⟩, ⟨_, u, _, rfl, rfl, g, gr, by decide⟩⟩

/-- The hypotheses of NoiseTestCompletesDisabled at a session. -/
def NoiseReady (s : State) : Prop :=
  ∃ (ws : List (Byte × Byte)) (f : State → State),
    s.initialized = true ∧ s.enable = false ∧ s.busOpen = false ∧ Accepts s (blockAt s 2) ws f ∧ AnswersOk s (ws.length + 7) ∧
      (parseSample (sampleAt s (ws.length + 6))).busy = false

/-- The disable succeeds, and fails twice. -/
theorem witness_NoiseTestCompletesDisabled :
    NoiseReady (session (oks 1 ++ resetGen ++ oks 1 ++ [sampleA] ++ oks 2)) ∧
      NoiseReady (session (oks 1 ++ resetGen ++ oks 1 ++ [sampleA, .fail, .fail])) := by
  constructor <;>
    exact ⟨_, _, rfl, rfl, rfl, .v1 (by decide +kernel) (by decide +kernel), answersOk_of (by decide +kernel), by decide +kernel⟩

theorem witness_DiagnosticsRestoreEnable :
    ∃ (i : Instr) (s t : State), (i = .extSelfTest ∨ i = .extSensitivity ∨ i = .extNoiseTest) ∧ SessionInv s ∧
      exec i s = .next t ∧ t.response = failure 4 := by
  obtain ⟨t, h, hr⟩ := next_of_holds (P := fun t => t.response = failure 4)
    (o := exec .extSelfTest (enabledGen (oks 1 ++ [.fail] ++ oks 1))) (by decide +kernel)
  exact ⟨_, _, t, .inl rfl, enabledGen_inv _, h, hr⟩

/-- An error response, an empty success, a sample. -/
theorem witness_ResponsesAreWellFormed :
    (∃ s t, exec .measure s = .next t ∧ t.response = failure 7) ∧ (∃ s t, exec .term s = .next t ∧ t.response = success 0 0 0 0) ∧
      (∃ s t, exec .measure s = .next t ∧ t.response = oneSample 269400 (-342240) 287400) :=
  ⟨⟨_, next_of_holds (o := exec .measure (enabledGen [sampleBusy])) (by decide +kernel)⟩,
    ⟨_, next_of_holds (o := exec .term (session [])) (by decide +kernel)⟩,
    ⟨_, next_of_holds (o := exec .measure (enabledGen [sampleA])) (by decide +kernel)⟩⟩

theorem witness_StatusWithinTable :
    ∃ s t, exec .extSelfTest s = .next t ∧ t.response = failure 8 :=
  ⟨_, next_of_holds (o := exec .extSelfTest (enabledGen (resetGen ++ oks 1 ++ [sampleMid] ++ oks 1))) (by decide +kernel)⟩

/-- Both clauses of BusTrafficOnlyWhereStated. -/
theorem witness_BusTrafficOnlyWhereStated :
    (∃ t, exec .term (enabledGen (oks 2)) = .next t ∧ mayUseBus .term (enabledGen (oks 2)) = true) ∧
      (∃ t, exec .term (session []) = .next t ∧ mayUseBus .term (session []) = false) :=
  have ⟨t, h, _⟩ := next_of_holds (P := fun t => t.enable = false) (o := exec .term (enabledGen (oks 2))) (by decide +kernel)
  ⟨⟨t, h, rfl⟩, ⟨_, rfl, rfl⟩⟩

theorem witness_AccessMatrixFrames :
    ∃ t, exec .measure (enabledGen [sampleA]) = .next t ∧ writesModel .measure (enabledGen [sampleA]) = false :=
  have ⟨t, h, _⟩ := next_of_holds (P := fun t => t.enable = true) (o := exec .measure (enabledGen [sampleA])) (by decide +kernel)
  ⟨t, h, rfl⟩

end Sys2Proof.Tests
end

section
/-! Settles the statements of the scope family: the fields of a calibration block under any layout (00_scope.md R8, 30_encoding.md
R66, R67), and the bytes and values a configuration record fixes (R75, 20_memory.md R44). -/

namespace Sys2Proof.Machine

/-! ### Calibration fields under any layout -/

/-- R66: the layout names, lowest first, the places in S of a field's bits. -/
theorem calField_testBit {w : Nat} (B : CalBlock) (bits : Vector (Fin 72) w) (i : Fin w) :
    (calField B bits).toNat.testBit i.val = (calString B).getLsbD (bits.get i).val := by
  have hi : i.val < (bits.toList.map fun j => (calString B).getLsbD j.val).length := by simp
  rw [calField, Int.toNat_natCast, bitsValue_testBit, List.getD_eq_getElem _ _ hi]
  simp [Vector.get_eq_getElem]

/-- A decoded model is in range whatever the block and the layout: the widths and the biases alone give the bounds (R99). -/
theorem decodeModel_inRange (l : CalLayout) (B : CalBlock) : ModelInRange (decodeModel l B) := by
  obtain ⟨v2, v3, v4, v5, v6, v7, v8, v9, vk⟩ := decodeModel_values l B
  constructor
  case a2 => have := calField_range B l.a2; omega
  case a3 => have := calField_range B l.a3; omega
  case a4 => have := calField_range B l.a4; omega
  case a5 => have := calField_range B l.a5; omega
  case a6 => have := calField_range B l.a6; omega
  case a7 => have := calField_range B l.a7; omega
  case a8 => have := calField_range B l.a8; omega
  case a9 => have := calField_range B l.a9; omega
  case k => have := calField_range B l.k; omega

/-- Settles O15: each bit through its place in S, the values and the ranges from the widths of the fields. -/
theorem decodedRanges : Obligations.DecodedRanges := by
  refine ⟨fun B w bits => ?_, fun l B => ?_⟩
  · obtain ⟨hnonneg, hlt⟩ := calField_range B bits
    exact ⟨hnonneg, hlt, fun i => (calField_testBit B bits i).trans (calString_bit B (bits.get i))⟩
  · obtain ⟨v2, v3, v4, v5, v6, v7, v8, v9, vk⟩ := decodeModel_values l B
    exact ⟨v2, v3, v4, v5, v6, v7, v8, v9, vk, decodeModel_inRange l B⟩

/-! ### Start, averaging and interval bytes -/

/-- A bit of a value that an argument selects or leaves out. -/
theorem getLsbD_ite_zero {w : Nat} (b : Bool) (x : BitVec w) (i : Nat) :
    (if b then x else 0#w).getLsbD i = (b && x.getLsbD i) := by
  cases b <;> simp

theorem cmdByte_getLsbD (c : Config) (ldtc fors cont : Bool) (i : Nat) :
    (cmdByte c ldtc fors cont).getLsbD i =
      (c.dev.valCmdStart.getLsbD i || (ldtc && c.dev.valCmdLdtc.getLsbD i) || (fors && c.dev.valCmdFors.getLsbD i) ||
        (cont && c.dev.valCmdCont.getLsbD i)) := by
  simp only [cmdByte, BitVec.getLsbD_or, getLsbD_ite_zero]

theorem intervalCode_of_override {c : Config} {d : Word} {a : BitVec 2} {b : Byte}
    (h : c.intervalOverrides.lookup (d, a) = some b) : intervalCode c d a = b := by
  rw [intervalCode, h]

theorem intervalCode_of_no_override {c : Config} {d : Word} {a : BitVec 2}
    (h : c.intervalOverrides.lookup (d, a) = none) : (intervalCode c d a).toNat = min 255 d.toNat := by
  have hbyte : min 255 d.toNat < 2 ^ 8 := by omega
  rw [intervalCode, h]
  exact (BitVec.toNat_ofNat ..).trans (Nat.mod_eq_of_lt hbyte)

/-- The averaging byte of the default record, level by level. -/
theorem avrCode_default (a : BitVec 2) : (avrCode defaultConfig a).toNat = 0x70 + a.toNat := by
  revert a; decide

/-- Settles O19: bit by bit and override by override for every record, then the default record's own fields, which hold by
evaluation. -/
theorem commandBytesAndLatencies : Obligations.CommandBytesAndLatencies := by
  refine ⟨cmdByte_getLsbD, fun c d a b => intervalCode_of_override List.lookup_cons_self, by decide, by decide, by decide,
    by decide, fun d a => intervalCode_of_no_override rfl, avrCode_default, ?_⟩
  decide

end Sys2Proof.Machine
end

section
/-! Settles the statements of the state family on the invariants: at reset, kept by every step, and enough for every step to
answer (10_state.md R36, R37, 20_memory.md R41 to R43). First, for the whole family, what the units write, each said once. -/

namespace Sys2Proof.Machine

/-! ### What an operation writes, as one record update -/

/-- P_SAMPLE's units write RAW, LAST_RAW, C, OVF and ACC (45_host_commands.md R196). -/
theorem sampled_eq (D : Fin 8 → Byte) (s : State) : sampled D s =
    { s with
      raw := parseSample D, lastRaw := (rawWords (parseSample D)).map (BitVec.setWidth 16), lastRawT := (parseSample D).t
      c := (sampled D s).c, ovf := (sampled D s).ovf, acc := (sampled D s).acc } := by
  unfold sampled uCorrect; split <;> rfl

/-- The output pipeline writes P, V and Q (42_coordinate_quantizer.md R120). -/
theorem quantised_eq (s : State) :
    quantised s = { s with p := (quantised s).p, v := (quantised s).v, q := (quantised s).q } := by
  unfold quantised uOrient; split <;> rfl

theorem uLinearAcc_eq (d : Tri Int) (s : State) : uLinearAcc d s = { s with acc := (uLinearAcc d s).acc } := by
  unfold uLinearAcc; split <;> rfl

theorem tickClock_eq (s : State) : tickClock s = { s with lclk := (tickClock s).lclk } := by
  unfold tickClock; split <;> rfl

/-- `TimeNow()` consumes an answer of the clock and records it, or does nothing (60_exceptions.md R236). -/
theorem timed_eq (s : State) : timed s =
    { s with clockScript := (timed s).clockScript, clockDraws := (timed s).clockDraws, trace := (timed s).trace } := by
  unfold timed; split <;> rfl

/-- State Normal writes ONSET, INVALID, MSTATE and Q (43_measurement_fsm.md R140 to R143). -/
theorem fsmNormal_eq (now : Word) (s : State) : fsmNormal now s =
    { s with
      onset := (fsmNormal now s).onset, invalid := (fsmNormal now s).invalid, mstate := (fsmNormal now s).mstate
      q := (fsmNormal now s).q } := by
  unfold fsmNormal; split <;> rfl

/-- State RecordData writes BASE besides (R139). -/
theorem fsmRecordData_eq (now : Word) (s : State) : fsmRecordData now s =
    { s with
      onset := (fsmRecordData now s).onset, invalid := (fsmRecordData now s).invalid
      mstate := (fsmRecordData now s).mstate, base := (fsmRecordData now s).base, q := (fsmRecordData now s).q } := by
  unfold fsmRecordData
  split
  · rfl
  · rw [fsmNormal_eq]

/-- The measurement states after Normal are Normal and InitCoil (R140). -/
theorem fsmNormal_mstate_legal {now : Word} {s : State} (h : s.mstate ≠ 3#2) : (fsmNormal now s).mstate ≠ 3#2 := by
  rw [fsmNormal_mstate]; split <;> [decide; exact h]

theorem fsmRecordData_mstate_legal {now : Word} {s : State} (h : s.mstate ≠ 3#2) :
    (fsmRecordData now s).mstate ≠ 3#2 := by
  unfold fsmRecordData
  split
  · exact h
  · exact fsmNormal_mstate_legal (show mNormal ≠ 3#2 by decide)

/-- INIT's three transactions, once the open succeeded, come to bookkeeping around a closed bus (45_host_commands.md R182). -/
theorem openReadClose_eq {s : State} (hb : s.busOpen = false) (a : Byte) (n : Nat) :
    ∃ evs, closeEffect (readEffect a n (openEffect s)) = advance s 3 evs := by
  refine ⟨[.opened (busOkAt s 0), .read a n (if busOkAt (openEffect s) 0 then some (List.ofFn (readData (openEffect s) n))
    else none), .closed (busOkAt (readEffect a n (openEffect s)) 0)], ?_⟩
  simp only [closeEffect, readEffect, openEffect, advance, List.drop_drop, List.append_assoc, List.cons_append,
    List.nil_append, Nat.add_assoc, Nat.reduceAdd, hb]

/-- INIT that answers: refused on an initialised session, else its transactions alone or with what a success writes
(45_host_commands.md R182). The bus is closed again in every case. -/
theorem execInit_next {s t : State} (h : execInit s = .next t) :
    (s.initialized = true ∧ t = respondError .alreadyInitialized s) ∨
    (s.initialized = false ∧ s.busOpen = false ∧ ∃ n evs, (∃ e, t = respondError e (advance s n evs)) ∨
      t = deliver okEmpty (initSession (advance s n evs))) := by
  unfold execInit at h
  split at h
  case isTrue hi => exact .inl ⟨hi, (Host.Outcome.next.inj h).symm⟩
  case isFalse hi =>
  split at h
  case isTrue hb => cases h
  case isFalse hb =>
  have hb : s.busOpen = false := by simpa using hb
  refine .inr ⟨by simpa using hi, hb, ?_⟩
  obtain rfl := Host.Outcome.next.inj h
  obtain ⟨evs, hend⟩ := openReadClose_eq hb s.cfg.dev.regId 1
  unfold identifyAndInit
  split
  case isFalse hk =>
    have hopen : openEffect s = advance s 1 [.opened false] := by
      rw [Bool.not_eq_true] at hk
      simp only [openEffect, hk, Bool.or_false]; rfl
    exact ⟨1, _, .inl ⟨_, congrArg _ hopen⟩⟩
  case isTrue =>
    refine ⟨3, evs, ?_⟩
    dsimp only
    rw [hend]
    split
    · exact .inl ⟨_, rfl⟩
    split
    · exact .inl ⟨_, rfl⟩
    split
    · exact .inl ⟨_, rfl⟩
    · exact .inr rfl

/-! ### The session's invariants through the procedures -/

/-- SessionInv on an initialised session, less what it says of BUSOPEN and ENABLE: those two move inside a procedure. -/
structure LegalSession (s : State) : Prop where
  cfgWf : s.cfg.wf = true
  initialized : s.initialized = true
  mstateLegal : s.mstate ≠ 3#2
  delayLegal : s.delay.toNat < 2 ^ 31
  modelInRange : s.model.ver = 1#1 → ModelInRange s.model

/-- At a command boundary of an initialised session BUSOPEN and ENABLE agree, and the two forms say the same. -/
theorem SessionInv.live {s : State} (h : SessionInv s) (hi : s.initialized = true) :
    Live LegalSession s.enable s.enable s :=
  ⟨⟨h.cfgWf, hi, h.mstateLegal, h.delayLegal, h.modelInRange⟩, h.busMatchesEnable, rfl⟩

theorem Live.sessionInv {e : Bool} {s : State} (h : Live LegalSession e e s) : SessionInv s :=
  have ⟨hl, hb, he⟩ := h
  ⟨hl.cfgWf, fun _ => hl.initialized, hb.trans he.symm, hl.mstateLegal, hl.delayLegal, hl.modelInRange⟩

/-- No unit breaks the invariants: a committed version-1 model is in range, and MSTATE moves among its three codes. -/
theorem legalSession_closed : Closed LegalSession where
  mstateLegal _ h := h.mstateLegal
  onAdvance _ _ _ h := { h with }
  onBusOpen _ _ h := { h with }
  onEnable _ _ h := { h with }
  onCommitV0 _ _ h := { h with modelInRange := fun hv => absurd hv (by decide : (0#1 : BitVec 1) ≠ 1#1) }
  onCommitV1 s B h := { h with modelInRange := fun _ => decodeModel_inRange s.cfg.calLayout B }
  onReset _ h := { h with mstateLegal := (by decide : mNormal ≠ 3#2) }
  onSampled _ _ h := by rw [sampled_eq]; exact { h with }
  onQuantised _ h := by rw [quantised_eq]; exact { h with }
  onConverted _ h := { h with }
  onLinear _ _ h := by rw [uLinearAcc_eq]; exact { h with }
  onTick _ h := by rw [tickClock_eq]; exact { h with }
  onTimed _ h := by rw [timed_eq]; exact { h with }
  onCoil _ _ h _ := { h with mstateLegal := (by decide : mRecordData ≠ 3#2) }
  onNormal _ _ h _ := by
    rw [fsmNormal_eq]; exact { h with mstateLegal := fsmNormal_mstate_legal h.mstateLegal }
  onRecord _ _ h _ := by
    rw [fsmRecordData_eq]; exact { h with mstateLegal := fsmRecordData_mstate_legal h.mstateLegal }

/-- A delay SET_DELAY accepts is below 2^31 (45_host_commands.md R189). -/
theorem toNat_lt_of_delayLegal {d : Word} (h : delayLegal d = true) : d.toNat < 2 ^ 31 := by
  have hmsb : d.msb = false := by simpa [delayLegal, BitVec.msb_eq_getLsbD_last] using h
  simpa using BitVec.toNat_lt_of_msb_false hmsb

/-- The default delay of a well-formed record is a legal one (00_scope.md R13). -/
theorem delayDefault_lt_of_wf {c : Config} (h : c.wf = true) : c.delayDefault.toNat < 2 ^ 31 := by
  simp only [Config.wf, Bool.and_eq_true, decide_eq_true_eq] at h
  obtain ⟨⟨⟨_, hdelay⟩, _⟩, _⟩ := h
  exact hdelay

/-! ### Each command from a state with the invariants -/

/-- The procedure ends, with a result or an error, in a state with the invariants. -/
def Settles (p : Proc Response) (s : State) : Prop := (p s).Sat (fun _ => SessionInv) (fun _ => SessionInv)

theorem Settles.of_live {p : Proc Response} {s : State} {e d : Bool}
    (h : (p s).Sat (fun _ => Live LegalSession e e) (fun _ => Live LegalSession d d)) : Settles p s :=
  h.mono (fun _ _ => Live.sessionInv) (fun _ _ => Live.sessionInv)

/-- P_DISABLE or P_ENABLE, then the empty answer. -/
theorem Settles.of_toggle {p : Proc Unit} {s : State} {r : Response} {e d : Bool}
    (h : (p s).Sat (fun _ => Live LegalSession e e) (fun _ => Live LegalSession d d)) :
    Settles (p.andThen (Proc.pure r)) s :=
  .of_live (Proc.andThen_sat h fun _ ht => ht)

theorem SessionInv.deliver {s : State} (h : SessionInv s) (r : Response) : SessionInv (deliver r s) := { h with }

/-- A guarded command answers, and keeps the invariants, if its procedure does on an initialised session. -/
theorem guarded_settles {p : Proc Response} {s : State} (h : SessionInv s) (hp : s.initialized = true → Settles p s) :
    ∃ t, guarded p s = .next t ∧ SessionInv t := by
  cases hi : s.initialized with
  | false => exact ⟨_, guarded_uninitialized hi, h.deliver _⟩
  | true =>
    have hs := hp hi
    unfold Settles at hs
    rw [guarded_initialized hi]
    cases hr : p s with
    | ok r t => rw [hr] at hs; exact ⟨_, rfl, SessionInv.deliver hs r⟩
    | err e t => rw [hr] at hs; exact ⟨_, rfl, SessionInv.deliver hs _⟩
    | fault f => rw [hr] at hs; exact hs.elim

theorem execInit_settles {s : State} (h : SessionInv s) : ∃ t, execInit s = .next t ∧ SessionInv t := by
  have hanswers : ∃ t, execInit s = .next t := by
    unfold execInit
    split
    case isTrue => exact ⟨_, rfl⟩
    case isFalse hi =>
      have hb : ¬ s.busOpen = true := fun hb => hi (h.enabledInitialized (h.busMatchesEnable ▸ hb))
      rw [if_neg hb]; exact ⟨_, rfl⟩
  obtain ⟨t, ht⟩ := hanswers
  refine ⟨t, ht, ?_⟩
  obtain ⟨_, rfl⟩ | ⟨_, hb, n, evs, ⟨e, rfl⟩ | rfl⟩ := execInit_next ht
  · exact h.deliver _
  · exact { h with }
  · exact {
      cfgWf := h.cfgWf
      enabledInitialized := fun _ => rfl
      busMatchesEnable := hb
      mstateLegal := (by decide : mNormal ≠ 3#2)
      delayLegal := delayDefault_lt_of_wf h.cfgWf
      modelInRange := h.modelInRange }

theorem pTerm_settles {s : State} (h : SessionInv s) (hi : s.initialized = true) : Settles pTerm s := by
  have hend : ∀ (r : Except ErrKind Unit) (t : State), Live LegalSession false false t →
      ((Proc.modify fun t => { t with initialized := false }).andThen
        (match r with | .ok _ => Proc.pure okEmpty | .error _ => raise .deviceCommunication) t).Sat
          (fun _ => SessionInv) (fun _ => SessionInv) := by
    intro r t ht
    have ⟨_, _, hdisabled⟩ := ht
    have hinv : SessionInv { t with initialized := false } :=
      { ht.sessionInv with enabledInitialized := fun he => absurd (hdisabled.symm.trans he) (by decide) }
    cases r <;> exact hinv
  refine Proc.bind_sat (Q := fun _ => Live LegalSession false false) ?_ hend
  have hl := h.live hi
  cases he : s.enable with
  | true => rw [he] at hl; exact Proc.attempt_sat (legalSession_closed.disable_sat hl)
  | false => rw [he] at hl; exact hl

theorem pSetEnable_settles (arg : Word) {s : State} (h : SessionInv s) (hi : s.initialized = true) :
    Settles (pSetEnable arg) s := by
  have hl := h.live hi
  unfold Settles pSetEnable
  split
  case isTrue => exact h
  case isFalse hne =>
    cases he : s.enable with
    | true =>
      rw [he] at hl hne
      rw [Bool.not_eq_true _ |>.mp hne]
      exact Settles.of_toggle (legalSession_closed.disable_sat hl)
    | false =>
      rw [he] at hl hne
      rw [Bool.not_eq_false _ |>.mp hne]
      exact Settles.of_toggle (legalSession_closed.enable_sat hl)

/-- A re-enable of an enabled session ends enabled, or disabled with the error (45_host_commands.md R195). -/
theorem reapplyIfEnabled_settles {s : State} (h : SessionInv s) (hi : s.initialized = true) :
    Settles reapplyIfEnabled s := by
  have hl := h.live hi
  unfold Settles reapplyIfEnabled
  split
  case isTrue he => rw [he] at hl; exact Settles.of_toggle (legalSession_closed.reapply_sat hl)
  case isFalse => exact h

theorem pSetDelay_settles (arg : Word) {s : State} (h : SessionInv s) (hi : s.initialized = true) :
    Settles (pSetDelay arg) s := by
  unfold Settles pSetDelay
  split
  case isTrue hd => exact reapplyIfEnabled_settles { h with delayLegal := toNat_lt_of_delayLegal hd } hi
  case isFalse => exact h

theorem pSetAveraging_settles (arg : Word) {s : State} (h : SessionInv s) (hi : s.initialized = true) :
    Settles (pSetAveraging arg) s := by
  unfold Settles pSetAveraging
  split
  case isTrue => exact reapplyIfEnabled_settles { h with } hi
  case isFalse => exact h

theorem pSetPosition_settles (arg : Word) {s : State} (h : SessionInv s) : Settles (pSetPosition arg) s := by
  unfold Settles pSetPosition
  split
  case isTrue => exact { h with }
  case isFalse => exact h

/-- Every command answers from a state with the invariants, and keeps them. -/
theorem exec_settles (i : Instr) {s : State} (h : SessionInv s) : ∃ t, exec i s = .next t ∧ SessionInv t := by
  cases i with
  | init => exact execInit_settles h
  | term => exact guarded_settles h (pTerm_settles h)
  | setEnable arg => exact guarded_settles h (pSetEnable_settles arg h)
  | setDelay arg => exact guarded_settles h (pSetDelay_settles arg h)
  | setAveraging arg => exact guarded_settles h (pSetAveraging_settles arg h)
  | setPosition arg => exact guarded_settles h fun _ => pSetPosition_settles arg h
  | measure => exact guarded_settles h fun hi => .of_live (legalSession_closed.measure_sat (h.live hi))
  | extSelfTest => exact guarded_settles h fun hi => .of_live (legalSession_closed.selfTest_sat (h.live hi))
  | extSensitivity => exact guarded_settles h fun hi => .of_live (legalSession_closed.sensitivity_sat (h.live hi))
  | extNoiseTest => exact guarded_settles h fun hi => .of_live (legalSession_closed.noise_sat (h.live hi))
  | getEnable | getDelay | getPosition | getAveraging | extGetRaw | extGetHwOffset =>
    exact guarded_settles h fun _ => h

/-- Every step answers from a state with the invariants, and keeps them. -/
theorem step_settles {s : State} (h : SessionInv s) : ∃ t, step s = .next t ∧ SessionInv t := by
  unfold step fetchCommand
  cases hp : s.port with
  | nil => exact ⟨s, rfl, h⟩
  | cons w rest =>
    have htaken : SessionInv { s with port := rest, trace := [] } := { h with }
    dsimp only
    cases decode w with
    | command i => exact exec_settles i htaken
    | illegalOpcode op => exact ⟨_, rfl, htaken.deliver _⟩
    | illegalExt arg => exact guarded_settles htaken fun _ => htaken

/-- Settles O10: each command's procedure ends in a state with the invariants (`exec_settles`). -/
theorem stepKeepsSessionInv : Obligations.StepKeepsSessionInv := by
  intro s t hs hstep
  obtain ⟨u, hu, hinv⟩ := step_settles hs
  obtain rfl := Host.Outcome.next.inj (hstep.symm.trans hu)
  exact hinv

/-- Settles O12: the same case analysis, where no procedure faults. -/
theorem sessionNeverStops : Obligations.SessionNeverStops := fun _ hs =>
  have ⟨t, ht, _⟩ := step_settles hs
  ⟨t, ht⟩

/-- The default record is well-formed: eight signed permutations with the identity at 2, and values within their bounds. -/
theorem defaultConfig_wf : defaultConfig.wf = true := by
  have horient : defaultOrient.all isSignedPermutation = true := by
    simp [defaultOrient, isSignedPermutation, Tri.isSignedUnit]
  have hidentity : (defaultOrient[2] == identityMatrix) = true := by decide
  simp only [Config.wf, defaultConfig, horient, hidentity]
  decide

/-- Settles O9: the reset state holds the default record, a disabled session and MSTATE 0. -/
theorem resetMeetsInvariants : Obligations.ResetMeetsInvariants := by
  have hinv : SessionInv State.reset := {
    cfgWf := defaultConfig_wf
    enabledInitialized := fun he => absurd he (by decide)
    busMatchesEnable := rfl
    mstateLegal := by decide
    delayLegal := by decide
    modelInRange := fun hv => absurd hv (by decide) }
  have hcoherent : FsmCoherent State.reset := iff_of_false (by decide) (not_not_intro rfl)
  exact ⟨rfl, rfl, rfl, rfl, hinv, hcoherent⟩

end Sys2Proof.Machine
end

section
/-! Settles the statement of the state family on the registers that carry nothing (10_state.md R10, R37 (d)): a relational
reading of the procedures. Two runs from states with the same view end alike, with the same answers and the same view. -/

namespace Sys2Proof.Machine

/-! ### Views: what a part of a command may still read -/

/-- The view between P_SAMPLE and the output pipeline: RAW, C and OVF are read, the other working registers are not. -/
def forgetOutputs (s : State) : State :=
  { s with model := readableModel s.model, p := ⟨0, 0, 0⟩, v := ⟨0, 0, 0⟩, q := ⟨0, 0, 0⟩, acc := 0 }

/-- The view of U_FSM and the response: Q is read as well. -/
def forgetScratch (s : State) : State :=
  { s with model := readableModel s.model, p := ⟨0, 0, 0⟩, v := ⟨0, 0, 0⟩, acc := 0 }

/-- The two states look the same in the view. -/
def SameView (view : State → State) (s t : State) : Prop := view s = view t

/-- An operation whose effect in the view `w` is a function of what the view `v` shows. -/
theorem SameView.map {v w : State → State} {s t : State} (h : SameView v s t) {f : State → State} (g : State → State)
    (hf : ∀ u, w (f u) = g (v u)) : SameView w (f s) (f t) :=
  (hf s).trans ((congrArg g h).trans (hf t).symm)

/-- An operation that the view passes through. -/
theorem SameView.lift {v : State → State} {s t : State} (h : SameView v s t) (f : State → State)
    (hf : ∀ u, v (f u) = f (v u) := by intro _; rfl) : SameView v (f s) (f t) := h.map f hf

/-- A value the view shows. -/
theorem SameView.read {v : State → State} {s t : State} (h : SameView v s t) {β : Type} (f : State → β)
    (hf : ∀ u, f u = f (v u) := by intro _; rfl) : f s = f t :=
  (hf s).trans ((congrArg f h).trans (hf t).symm)

theorem readableModel_ver (m : CorrModel) : (readableModel m).ver = m.ver := by
  unfold readableModel; split <;> simp_all

/-- Under VER 1 the view shows the whole model. -/
theorem readableModel_of_ver_ne {m : CorrModel} (h : m.ver ≠ 0#1) : readableModel m = m := if_neg h

/-- A view that shows the bus, and hides no more than what carries nothing to the next command. -/
structure BusView (v : State → State) : Prop where
  busOpen : ∀ s, s.busOpen = (v s).busOpen
  busScript : ∀ s, s.busScript = (v s).busScript
  busDraws : ∀ s, s.busDraws = (v s).busDraws
  advance : ∀ s n evs, v (Machine.advance s n evs) = Machine.advance (v s) n evs
  readable : ∀ s t, SameView v s t → SameView forgetUnread s t

theorem forgetUnread_busView : BusView forgetUnread :=
  ⟨fun _ => rfl, fun _ => rfl, fun _ => rfl, fun _ _ _ => rfl, fun _ _ h => h⟩

/-- The sample's registers and Q blanked as well: the rest of the way from either view to `forgetUnread`. -/
def blankSample (s : State) : State :=
  { s with raw := ⟨0, 0, 0, 0, false, false⟩, c := ⟨0, 0, 0⟩, ovf := 0, q := ⟨0, 0, 0⟩ }

theorem forgetOutputs_busView : BusView forgetOutputs :=
  ⟨fun _ => rfl, fun _ => rfl, fun _ => rfl, fun _ _ _ => rfl, fun _ _ h => h.map blankSample fun _ => rfl⟩

theorem forgetScratch_busView : BusView forgetScratch :=
  ⟨fun _ => rfl, fun _ => rfl, fun _ => rfl, fun _ _ _ => rfl, fun _ _ h => h.map blankSample fun _ => rfl⟩

section
variable {v : State → State}

theorem BusView.busOkAt (hv : BusView v) {s t : State} (h : SameView v s t) (k : Nat) :
    Machine.busOkAt s k = Machine.busOkAt t k :=
  busOkAt_congr (h.read _ hv.busScript) (h.read _ hv.busDraws) k

theorem BusView.readData (hv : BusView v) {s t : State} (h : SameView v s t) (n : Nat) :
    Machine.readData s n = Machine.readData t n :=
  readData_congr (h.read _ hv.busScript) (h.read _ hv.busDraws) n

theorem BusView.map_advance (hv : BusView v) {s t : State} (h : SameView v s t) (n : Nat) (evs : List Event) :
    SameView v (Machine.advance s n evs) (Machine.advance t n evs) :=
  h.lift (Machine.advance · n evs) fun u => hv.advance u n evs

end

/-! ### Ending alike -/

/-- The same kind of end with the same result or error; after a result the states look the same in `w`, after an error in
the view of the next command. -/
def Res.Alike {α : Type} (w : State → State) : Res α → Res α → Prop
  | .ok a s, .ok b t => a = b ∧ SameView w s t
  | .err e s, .err f t => e = f ∧ SameView forgetUnread s t
  | .fault x, .fault y => x = y
  | .ok _ _, .err _ _ | .ok _ _, .fault _ | .err _ _, .ok _ _ | .err _ _, .fault _ | .fault _, .ok _ _
  | .fault _, .err _ _ => False

/-- From states that look the same in `v`, the procedure ends alike, and in `w` if it ends with a result. -/
def Proc.Blind {α : Type} (v w : State → State) (p : Proc α) : Prop :=
  ∀ s t, SameView v s t → (p s).Alike w (p t)

theorem SameView.run {α : Type} {v w : State → State} {p : Proc α} {s t : State} (h : SameView v s t)
    (hp : Proc.Blind v w p) : (p s).Alike w (p t) := hp s t h

/-- The three ways two runs end alike. -/
theorem Res.Alike.cases {α : Type} {w : State → State} {r r' : Res α} (h : r.Alike w r') :
    (∃ a s t, r = .ok a s ∧ r' = .ok a t ∧ SameView w s t) ∨
    (∃ e s t, r = .err e s ∧ r' = .err e t ∧ SameView forgetUnread s t) ∨ (∃ x, r = .fault x ∧ r' = .fault x) := by
  cases r with
  | ok a s =>
    cases r' with
    | ok b t => obtain ⟨rfl, hw⟩ := h; exact .inl ⟨a, s, t, rfl, rfl, hw⟩
    | err f t => exact h.elim
    | fault y => exact h.elim
  | err e s =>
    cases r' with
    | ok b t => exact h.elim
    | err f t => obtain ⟨rfl, hw⟩ := h; exact .inr (.inl ⟨e, s, t, rfl, rfl, hw⟩)
    | fault y => exact h.elim
  | fault x =>
    cases r' with
    | ok b t => exact h.elim
    | err f t => exact h.elim
    | fault y => obtain rfl : x = y := h; exact .inr (.inr ⟨x, rfl, rfl⟩)

section
variable {α β : Type} {u v w : State → State}

theorem Proc.pure_blind (v : State → State) (a : α) : Proc.Blind v v (Proc.pure a) := fun _ _ h => ⟨rfl, h⟩

theorem raise_blind (hv : BusView v) (e : ErrKind) : Proc.Blind v w (raise e : Proc α) :=
  fun s t h => ⟨rfl, hv.readable s t h⟩

theorem Proc.modify_blind {f : State → State} (g : State → State) (hf : ∀ u, w (f u) = g (v u)) :
    Proc.Blind v w (Proc.modify f) := fun _ _ h => ⟨rfl, h.map g hf⟩

theorem Proc.bind_blind {p : Proc α} {q : α → Proc β} (hp : Proc.Blind u v p) (hq : ∀ a, Proc.Blind v w (q a)) :
    Proc.Blind u w (p.bind q) := by
  intro s t h
  unfold Proc.bind
  obtain ⟨a, s', t', hs, ht, h'⟩ | ⟨e, s', t', hs, ht, h'⟩ | ⟨x, hs, ht⟩ := (hp s t h).cases
  · rw [hs, ht]; exact hq a s' t' h'
  · rw [hs, ht]; exact ⟨rfl, h'⟩
  · rw [hs, ht]; exact rfl

theorem Proc.andThen_blind {p : Proc Unit} {q : Proc β} (hp : Proc.Blind u v p) (hq : Proc.Blind v w q) :
    Proc.Blind u w (p.andThen q) := Proc.bind_blind hp fun _ => hq

theorem Proc.attempt_blind {p : Proc α} (hp : Proc.Blind v forgetUnread p) : Proc.Blind v forgetUnread p.attempt := by
  intro s t h
  unfold Proc.attempt
  obtain ⟨a, s', t', hs, ht, h'⟩ | ⟨e, s', t', hs, ht, h'⟩ | ⟨x, hs, ht⟩ := (hp s t h).cases
  · rw [hs, ht]; exact ⟨rfl, h'⟩
  · rw [hs, ht]; exact ⟨rfl, h'⟩
  · rw [hs, ht]; exact rfl

theorem Proc.ignore_blind {p : Proc α} (hp : Proc.Blind v forgetUnread p) : Proc.Blind v forgetUnread p.ignore :=
  Proc.bind_blind (Proc.attempt_blind hp) fun _ => Proc.pure_blind _ ()

theorem Proc.withCleanup_blind {b : Proc α} {c : Proc Unit} (hb : Proc.Blind v forgetUnread b)
    (hc : Proc.Blind forgetUnread forgetUnread c) : Proc.Blind v forgetUnread (b.withCleanup c) :=
  Proc.bind_blind (Proc.attempt_blind hb) fun r => Proc.bind_blind (Proc.ignore_blind hc) fun _ => by
    cases r with
    | ok a => exact Proc.pure_blind _ a
    | error e => exact raise_blind forgetUnread_busView e

/-- A procedure that ends in a view `v` also ends in the view of the next command. -/
theorem Proc.Blind.forget {p : Proc α} (hp : Proc.Blind u v p) (hv : BusView v) : Proc.Blind u forgetUnread p := by
  intro s t h
  obtain ⟨a, s', t', hs, ht, h'⟩ | ⟨e, s', t', hs, ht, h'⟩ | ⟨x, hs, ht⟩ := (hp s t h).cases
  · rw [hs, ht]; exact ⟨rfl, hv.readable s' t' h'⟩
  · rw [hs, ht]; exact ⟨rfl, h'⟩
  · rw [hs, ht]; exact rfl

/-- A choice made before the state is read. -/
theorem Proc.ite_blind {c : Prop} [Decidable c] {p q : Proc α} (hp : Proc.Blind v w p) (hq : Proc.Blind v w q) :
    Proc.Blind v w (if c then p else q) := by split <;> assumption

/-- A choice by a value the view shows. -/
theorem Proc.branch_blind {p q : Proc α} (c : State → Bool) (hp : Proc.Blind v w p) (hq : Proc.Blind v w q)
    (hc : ∀ u, c u = c (v u) := by intro _; rfl) : Proc.Blind v w (fun s => if c s then p s else q s) := by
  intro s t h
  dsimp only
  rw [h.read c hc]
  split
  · exact hp s t h
  · exact hq s t h

/-- A procedure that ends at once with a value the view shows. -/
theorem Proc.answer_blind (f : State → α) (hf : ∀ u, f u = f (v u) := by intro _; rfl) :
    Proc.Blind v v (fun s => .ok (f s) s) := fun _ _ h => ⟨h.read f hf, h⟩

end

/-! ### The environment's primitives, in any view that shows the bus -/

/-- The common shape of the four bus primitives (20_memory.md R41 to R43). -/
theorem Res.Alike.transaction {α : Type} {w : State → State} {bad bad' ok ok' : Bool} {x : Fault} {e : ErrKind} {a b : α}
    {s t : State} (hw : BusView w) (hbad : bad = bad') (hok : ok = ok') (hval : a = b) (h : SameView w s t) :
    Res.Alike w (if bad then .fault x else if ok then .ok a s else .err e s)
      (if bad' then .fault x else if ok' then .ok b t else .err e t) := by
  subst hbad hok
  split
  · exact rfl
  split
  · exact ⟨hval, h⟩
  · exact ⟨rfl, hw.readable s t h⟩

section
variable {v : State → State}

theorem primMemWrite_blind (hv : BusView v) (a b : Byte) : Proc.Blind v v (primMemWrite a b) := by
  intro s t h
  have hk := hv.busOkAt h 0
  refine .transaction hv (congrArg _ (h.read _ hv.busOpen)) hk rfl ?_
  unfold writeEffect
  rw [hk]
  exact hv.map_advance h _ _

theorem primMemRead_blind (hv : BusView v) (a : Byte) (n : Nat) : Proc.Blind v v (primMemRead a n) := by
  intro s t h
  have hk := hv.busOkAt h 0
  have hd := hv.readData h n
  refine .transaction hv (congrArg _ (h.read _ hv.busOpen)) hk hd ?_
  unfold readEffect
  rw [hk, hd]
  exact hv.map_advance h _ _

theorem primSleep_blind (hv : BusView v) (us : Nat) : Proc.Blind v v (primSleep us) :=
  Proc.modify_blind (Machine.advance · 0 [.slept us]) fun u => hv.advance u 0 _

theorem writeAll_blind (hv : BusView v) (ws : List (Byte × Byte)) : Proc.Blind v v (writeAll ws) := by
  induction ws with
  | nil => exact Proc.pure_blind v ()
  | cons w ws ih => exact Proc.andThen_blind (primMemWrite_blind hv w.1 w.2) ih

theorem checkMask_blind (hv : BusView v) (m : BitVec 6) : Proc.Blind v v (checkMask m) :=
  Proc.ite_blind (raise_blind hv _) (Proc.ite_blind (raise_blind hv _) (Proc.pure_blind v ()))

end

/-- Blind to what carries nothing to the next command, from start to end. -/
abbrev Proc.Forgetful {α : Type} (p : Proc α) : Prop := Proc.Blind forgetUnread forgetUnread p

theorem primBusOpen_forgetful : Proc.Forgetful primBusOpen := by
  intro s t h
  refine .transaction forgetUnread_busView (h.read _ forgetUnread_busView.busOpen) (forgetUnread_busView.busOkAt h 0) rfl ?_
  exact h.lift openEffect

theorem primBusClose_forgetful : Proc.Forgetful primBusClose := by
  intro s t h
  refine .transaction forgetUnread_busView (congrArg _ (h.read _ forgetUnread_busView.busOpen))
    (forgetUnread_busView.busOkAt h 0) rfl ?_
  exact h.lift closeEffect

/-! ### The session procedures -/

theorem uCaldec_forgetful (B : CalBlock) : Proc.Forgetful (uCaldec B) := by
  intro s t h
  have hcfg : s.cfg = t.cfg := h.read State.cfg
  have hv := forgetUnread_busView
  unfold uCaldec
  rw [hcfg]
  split
  · exact ⟨rfl, h⟩
  split
  · refine h.run (Proc.andThen_blind (writeAll_blind hv _) (Proc.modify_blind (fun u => forgetUnread (commitV0 B u)) ?_))
    exact fun _ => rfl
  split
  · refine h.run (Proc.andThen_blind (writeAll_blind hv _) (Proc.modify_blind (fun u => forgetUnread (commitV1 B u)) ?_))
    exact fun _ => rfl
  · exact ⟨rfl, h⟩

theorem pResetDecode_forgetful : Proc.Forgetful pResetDecode := by
  have hv := forgetUnread_busView
  intro s t h
  have hcfg : s.cfg = t.cfg := h.read State.cfg
  have havg : s.avg = t.avg := h.read State.avg
  have hdelay : s.delay = t.delay := h.read State.delay
  unfold pResetDecode
  rw [hcfg, havg, hdelay]
  exact h.run (Proc.andThen_blind (primMemWrite_blind hv _ _) (Proc.andThen_blind (primSleep_blind hv _)
    (Proc.bind_blind (primMemRead_blind hv _ _) fun B => Proc.andThen_blind (uCaldec_forgetful B)
      (Proc.andThen_blind (primMemWrite_blind hv _ _) (Proc.andThen_blind (primMemWrite_blind hv _ _)
        (Proc.modify_blind resetMeasurement fun _ => rfl))))))

theorem pContStart_forgetful : Proc.Forgetful pContStart := by
  have hv := forgetUnread_busView
  intro s t h
  have hcfg : s.cfg = t.cfg := h.read State.cfg
  have havg : s.avg = t.avg := h.read State.avg
  unfold pContStart
  rw [hcfg, havg]
  exact h.run (Proc.andThen_blind (primMemWrite_blind hv _ _) (primSleep_blind hv _))

/-- Writing ENABLE. -/
theorem setEnable_forgetful (b : Bool) : Proc.Forgetful (Proc.modify fun s => { s with enable := b }) :=
  Proc.modify_blind (fun s => { s with enable := b }) fun _ => rfl

theorem pEnable_forgetful : Proc.Forgetful pEnable := by
  refine Proc.andThen_blind primBusOpen_forgetful (Proc.bind_blind
    (Proc.attempt_blind (Proc.andThen_blind pResetDecode_forgetful pContStart_forgetful)) fun e => ?_)
  cases e with
  | ok _ => exact setEnable_forgetful true
  | error k => exact Proc.andThen_blind (Proc.ignore_blind primBusClose_forgetful) (raise_blind forgetUnread_busView k)

theorem reraise_forgetful {α : Type} (r : Except ErrKind α) : Proc.Forgetful (reraise r) := by
  cases r with
  | ok _ => exact Proc.pure_blind _ ()
  | error e => exact raise_blind forgetUnread_busView e

theorem pDisable_forgetful : Proc.Forgetful pDisable := by
  intro s t h
  have hcfg : s.cfg = t.cfg := h.read State.cfg
  unfold pDisable
  rw [hcfg]
  exact h.run (Proc.bind_blind (Proc.attempt_blind (primMemWrite_blind forgetUnread_busView _ _)) (fun e1 =>
    Proc.bind_blind (Proc.attempt_blind primBusClose_forgetful) fun e2 =>
    Proc.andThen_blind (setEnable_forgetful false) (Proc.andThen_blind (reraise_forgetful e1) (reraise_forgetful e2))))

theorem reapplyIfEnabled_forgetful : Proc.Forgetful reapplyIfEnabled :=
  Proc.branch_blind State.enable
    (Proc.andThen_blind (Proc.andThen_blind pDisable_forgetful pEnable_forgetful) (Proc.pure_blind _ okEmpty))
    (Proc.pure_blind _ okEmpty)

/-! ### The sample and its pipeline -/

/-- What `forgetOutputs` blanks besides the coefficients. -/
def blankOutputs (s : State) : State := { s with p := ⟨0, 0, 0⟩, v := ⟨0, 0, 0⟩, q := ⟨0, 0, 0⟩, acc := 0 }

/-- What `forgetScratch` blanks besides the coefficients. -/
def blankScratch (s : State) : State := { s with p := ⟨0, 0, 0⟩, v := ⟨0, 0, 0⟩, acc := 0 }

/-- The correction reads the coefficients under VER 1 only (41_correction_mac.md R111): the words, and the mask with them,
are decided by what the next command may read. -/
theorem forgetOutputs_sampled (D : Fin 8 → Byte) (s : State) :
    forgetOutputs (sampled D s) = blankOutputs (sampled D (forgetUnread s)) := by
  unfold sampled uCorrect
  by_cases h : s.model.ver = 0#1
  · rw [if_pos (show (captureSample D s).model.ver = 0#1 from h),
      if_pos (show (captureSample D (forgetUnread s)).model.ver = 0#1 from (readableModel_ver _).trans h)]
    rfl
  · rw [if_neg (show ¬ (captureSample D s).model.ver = 0#1 from h),
      if_neg (show ¬ (captureSample D (forgetUnread s)).model.ver = 0#1 from fun h' => h ((readableModel_ver _).symm.trans h'))]
    have hm : (captureSample D (forgetUnread s)).model = s.model := readableModel_of_ver_ne h
    rw [hm]
    simp only [forgetOutputs, blankOutputs, uOvf, captureSample, forgetUnread, readableModel_of_ver_ne h]

/-- The output pipeline reads C, OVF and POSITION (42_coordinate_quantizer.md R120). -/
theorem forgetScratch_quantised (s : State) : forgetScratch (quantised s) = blankScratch (quantised (forgetOutputs s)) := by
  unfold quantised uOrient
  rw [apply_ite uQuant, apply_ite forgetScratch, apply_ite uQuant, apply_ite blankScratch]
  rfl

theorem linearPart_forgetOutputs (s : State) (d : Tri Int) : linearPart s d = linearPart (forgetOutputs s) d := by
  unfold linearPart
  by_cases h : s.model.ver = 0#1
  · rw [if_pos h, if_pos (show (forgetOutputs s).model.ver = 0#1 from (readableModel_ver _).trans h)]
  · have hm : (forgetOutputs s).model = s.model := readableModel_of_ver_ne h
    rw [hm]; rfl

theorem pSample_blind : Proc.Blind forgetUnread forgetOutputs pSample := by
  intro s t h
  have hcfg : s.cfg = t.cfg := h.read State.cfg
  unfold pSample
  rw [hcfg]
  exact h.run (Proc.bind_blind (primMemRead_blind forgetUnread_busView _ _)
    (fun D => Proc.modify_blind (fun u => blankOutputs (sampled D u)) (forgetOutputs_sampled D)))

theorem pSingleShot_blind (ldtc fors : Bool) : Proc.Blind forgetUnread forgetOutputs (pSingleShot ldtc fors) := by
  have hv := forgetUnread_busView
  intro s t h
  have hcfg : s.cfg = t.cfg := h.read State.cfg
  have havg : s.avg = t.avg := h.read State.avg
  unfold pSingleShot
  rw [hcfg, havg]
  exact h.run (Proc.andThen_blind (primMemWrite_blind hv _ _) (Proc.andThen_blind (primSleep_blind hv _)
    (Proc.andThen_blind pSample_blind (Proc.branch_blind (fun u => u.raw.busy)
      (raise_blind forgetOutputs_busView .busy) (Proc.pure_blind _ ())))))

/-! ### P_MEASURE -/

theorem timeNow_blind : Proc.Blind forgetScratch forgetScratch timeNow := by
  intro s t h
  have hnow : nowOf s = nowOf t := h.read nowOf
  rw [timeNow_eq, timeNow_eq]
  refine ⟨hnow, h.lift timed fun u => ?_⟩
  unfold timed
  rw [apply_ite forgetScratch]
  rfl

/-- State Normal reads C, BASE, OVF, INVALID and Q (43_measurement_fsm.md R140 to R143). -/
theorem forgetScratch_fsmNormal (now : Word) (s : State) :
    forgetScratch (fsmNormal now s) = fsmNormal now (forgetScratch s) := by
  unfold fsmNormal
  rw [apply_ite forgetScratch]
  rfl

theorem forgetScratch_fsmRecordData (now : Word) (s : State) :
    forgetScratch (fsmRecordData now s) = fsmRecordData now (forgetScratch s) := by
  unfold fsmRecordData
  rw [apply_ite forgetScratch, forgetScratch_fsmNormal]
  rfl

theorem fsmInitCoil_blind (now : Word) : Proc.Blind forgetScratch forgetScratch (fsmInitCoil now) := by
  have hv := forgetScratch_busView
  intro s t h
  have hcfg : s.cfg = t.cfg := h.read State.cfg
  have honset : s.onset = t.onset := h.read State.onset
  unfold fsmInitCoil
  rw [hcfg, honset]
  split
  · exact h.run (Proc.andThen_blind (primMemWrite_blind hv _ _) (Proc.modify_blind (coilDone now) fun _ => rfl))
  · exact ⟨rfl, h⟩

theorem uFsm_blind (now : Word) : Proc.Blind forgetScratch forgetScratch (uFsm now) := by
  intro s t h
  have hmstate : s.mstate = t.mstate := h.read State.mstate
  unfold uFsm
  rw [hmstate]
  split
  · exact fsmInitCoil_blind now s t h
  split
  · exact ⟨rfl, h.lift _ (forgetScratch_fsmRecordData now)⟩
  split
  · exact ⟨rfl, h.lift _ (forgetScratch_fsmNormal now)⟩
  · exact rfl

theorem judgeSample_blind : Proc.Blind forgetScratch forgetScratch judgeSample :=
  Proc.branch_blind (fun u => u.raw.busy) (raise_blind forgetScratch_busView .busy)
    (Proc.bind_blind timeNow_blind fun now => Proc.andThen_blind (uFsm_blind now)
      (Proc.answer_blind fun u => sampleResponse u.q))

theorem forgetUnread_tickClock (s : State) : forgetUnread (tickClock s) = tickClock (forgetUnread s) := by
  unfold tickClock
  rw [apply_ite forgetUnread]
  rfl

theorem pMeasure_forgetful : Proc.Forgetful pMeasure := by
  intro s t h
  have henable : s.enable = t.enable := h.read State.enable
  have htick : SameView forgetUnread (tickClock s) (tickClock t) := h.lift tickClock forgetUnread_tickClock
  unfold pMeasure
  rw [henable]
  split
  · exact ⟨rfl, htick⟩
  · refine htick.run (Proc.andThen_blind pSample_blind (Proc.Blind.forget (Proc.andThen_blind ?_ judgeSample_blind)
      forgetScratch_busView))
    exact Proc.modify_blind (fun u => blankScratch (quantised u)) forgetScratch_quantised

/-! ### The diagnostics -/

theorem pRestore_forgetful (was : Bool) : Proc.Forgetful (pRestore was) := by
  have hv := forgetUnread_busView
  have hrelease : Proc.Forgetful releaseBus := by
    intro s t h
    have hcfg : s.cfg = t.cfg := h.read State.cfg
    have hopen : s.busOpen = t.busOpen := h.read State.busOpen
    unfold releaseBus
    rw [hcfg, hopen]
    split
    · exact h.run (Proc.andThen_blind (Proc.ignore_blind (primMemWrite_blind hv _ _))
        (Proc.ignore_blind primBusClose_forgetful))
    · exact ⟨rfl, h⟩
  exact Proc.ite_blind (Proc.ignore_blind pContStart_forgetful) (Proc.andThen_blind hrelease (setEnable_forgetful false))

theorem directionResult_forgetful (d : Tri Int) : Proc.Forgetful (directionResult d) :=
  Proc.ite_blind (raise_blind forgetUnread_busView _) (Proc.pure_blind _ _)

/-- The direction is judged on OVF and C, which the shot has written (44_self_test_controller.md R160). -/
theorem judgeDirection_blind : Proc.Blind forgetOutputs forgetUnread judgeDirection := by
  intro s t h
  have hovf : s.ovf = t.ovf := h.read State.ovf
  unfold judgeDirection
  rw [hovf]
  refine h.run (Proc.andThen_blind (checkMask_blind forgetOutputs_busView _) ?_)
  intro s t h
  have hp : (uConv s).p = (uConv t).p := h.read (fun u => (uConv u).p)
  have hconv : SameView forgetUnread (uConv s) (uConv t) := h.map blankSample fun _ => rfl
  rw [Proc.andThen_ok (Proc.modify_apply uConv s), Proc.andThen_ok (Proc.modify_apply uConv t), hp]
  exact directionResult_forgetful _ _ _ hconv

theorem selfTest_forgetful (was : Bool) : Proc.Forgetful ((selfTestBody was).withCleanup (pRestore was)) :=
  Proc.withCleanup_blind (Proc.andThen_blind (Proc.ite_blind (Proc.pure_blind _ ()) primBusOpen_forgetful)
    (Proc.andThen_blind (Proc.andThen_blind pResetDecode_forgetful (pSingleShot_blind false false)) judgeDirection_blind))
    (pRestore_forgetful was)

/-- The factors are computed from LAST_RAW, OVF and the model (44_self_test_controller.md R163). -/
theorem sensResult_blind (p : Tri (BitVec 16)) (fp : BitVec 6) : Proc.Blind forgetOutputs forgetUnread (sensResult p fp) := by
  have hv := forgetUnread_busView
  intro s t h
  have hcfg : s.cfg = t.cfg := h.read State.cfg
  have hovf : s.ovf = t.ovf := h.read State.ovf
  have hraw : s.lastRaw = t.lastRaw := h.read State.lastRaw
  have hlin : ∀ d, linearPart s d = linearPart t d := fun d => h.read (linearPart · d) (linearPart_forgetOutputs · d)
  unfold sensResult
  rw [hcfg, hovf, hraw, hlin]
  refine h.run (Proc.andThen_blind (Proc.modify_blind blankSample fun u => ?_)
    (Proc.andThen_blind (checkMask_blind hv _) (Proc.pure_blind _ _)))
  rw [uLinearAcc_eq]
  rfl

theorem twoShots_forgetful : Proc.Forgetful twoShots := by
  refine Proc.andThen_blind (pSingleShot_blind true false) ?_
  intro s t h
  have hovf : s.ovf = t.ovf := h.read State.ovf
  have hraw : s.lastRaw = t.lastRaw := h.read State.lastRaw
  dsimp only
  rw [hovf, hraw]
  exact (forgetOutputs_busView.readable s t h).run (Proc.andThen_blind (pSingleShot_blind true true) (sensResult_blind _ _))

theorem sensitivity_forgetful (was : Bool) : Proc.Forgetful ((sensitivityBody was).withCleanup (pRestore was)) :=
  Proc.withCleanup_blind (Proc.andThen_blind (Proc.ite_blind (Proc.pure_blind _ ())
    (Proc.andThen_blind primBusOpen_forgetful pResetDecode_forgetful)) twoShots_forgetful) (pRestore_forgetful was)

theorem noise_forgetful (was : Bool) : Proc.Forgetful ((noiseBody was).withCleanup (noiseCleanup was)) :=
  Proc.withCleanup_blind
    (Proc.andThen_blind (Proc.ite_blind (Proc.pure_blind _ ()) pEnable_forgetful)
      (Proc.bind_blind pMeasure_forgetful fun _ => Proc.answer_blind fun u => okResponse (noiseDeviation u.lastRaw.c0)
        (noiseDeviation u.lastRaw.c1) (noiseDeviation u.lastRaw.c2) 0))
    (Proc.branch_blind (fun u => !was && u.enable) (Proc.ignore_blind pDisable_forgetful)
      (Proc.pure_blind _ ()))

/-! ### The commands and the step -/

theorem pTerm_forgetful : Proc.Forgetful pTerm := by
  have hv := forgetUnread_busView
  intro s t h
  have henable : s.enable = t.enable := h.read State.enable
  unfold pTerm
  rw [henable]
  refine h.run (Proc.bind_blind (Proc.ite_blind (Proc.attempt_blind pDisable_forgetful) (Proc.pure_blind _ _)) fun e =>
    Proc.andThen_blind (v := forgetUnread) (Proc.modify_blind (fun u => { u with initialized := false }) fun _ => rfl) ?_)
  cases e with
  | ok _ => exact Proc.pure_blind _ okEmpty
  | error _ => exact raise_blind hv .deviceCommunication

theorem pSetEnable_forgetful (arg : Word) : Proc.Forgetful (pSetEnable arg) := by
  intro s t h
  have henable : s.enable = t.enable := h.read State.enable
  unfold pSetEnable
  rw [henable]
  split
  · exact ⟨rfl, h⟩
  · exact h.run (Proc.andThen_blind (Proc.ite_blind pEnable_forgetful pDisable_forgetful) (Proc.pure_blind _ okEmpty))

theorem pSetDelay_forgetful (arg : Word) : Proc.Forgetful (pSetDelay arg) := by
  intro s t h
  unfold pSetDelay
  split
  · exact reapplyIfEnabled_forgetful _ _ (h.lift fun u => { u with delay := arg })
  · exact ⟨rfl, h⟩

theorem pSetAveraging_forgetful (arg : Word) : Proc.Forgetful (pSetAveraging arg) := by
  intro s t h
  unfold pSetAveraging
  split
  · exact reapplyIfEnabled_forgetful _ _ (h.lift fun u => { u with avg := arg.setWidth 2 })
  · exact ⟨rfl, h⟩

theorem pSetPosition_forgetful (arg : Word) : Proc.Forgetful (pSetPosition arg) := by
  intro s t h
  unfold pSetPosition
  split
  · exact ⟨rfl, h.lift fun u => { u with position := arg.setWidth 3 }⟩
  · exact ⟨rfl, h⟩

/-- Two commands that end alike have the same outcome, up to what carries nothing. -/
theorem forgetOutcome_finish {r r' : Res Response} (h : r.Alike forgetUnread r') :
    forgetOutcome (finish r) = forgetOutcome (finish r') := by
  have hdeliver : ∀ (a : Response) s t, SameView forgetUnread s t →
      forgetOutcome (.next (deliver a s)) = forgetOutcome (.next (deliver a t)) := fun a s t hst =>
    congrArg Host.Outcome.next (hst.lift (deliver a))
  obtain ⟨a, s, t, rfl, rfl, hst⟩ | ⟨e, s, t, rfl, rfl, hst⟩ | ⟨x, rfl, rfl⟩ := h.cases
  · exact hdeliver a s t hst
  · exact hdeliver (errorResponse e) s t hst
  · rfl

theorem forgetOutcome_guarded {p q : Proc Response} {s t : State} (h : SameView forgetUnread s t)
    (hpq : (p s).Alike forgetUnread (q t)) : forgetOutcome (guarded p s) = forgetOutcome (guarded q t) := by
  have hinit : s.initialized = t.initialized := h.read State.initialized
  unfold guarded
  rw [hinit]
  split
  · exact forgetOutcome_finish hpq
  · exact congrArg Host.Outcome.next (h.lift (respondError .notInitialized))

theorem forgetUnread_identifyAndInit (s : State) :
    forgetUnread (identifyAndInit s) = identifyAndInit (forgetUnread s) := by
  unfold identifyAndInit
  dsimp only
  simp only [apply_ite forgetUnread]
  rfl

theorem forgetOutcome_execInit {s t : State} (h : SameView forgetUnread s t) :
    forgetOutcome (execInit s) = forgetOutcome (execInit t) := by
  have hinit : s.initialized = t.initialized := h.read State.initialized
  have hopen : s.busOpen = t.busOpen := h.read State.busOpen
  unfold execInit
  rw [hinit, hopen]
  split
  · exact congrArg Host.Outcome.next (h.lift (respondError .alreadyInitialized))
  split
  · rfl
  · exact congrArg Host.Outcome.next (h.lift identifyAndInit forgetUnread_identifyAndInit)

/-- The same command from states with the same view. -/
theorem forgetOutcome_exec (i : Instr) {s t : State} (h : SameView forgetUnread s t) :
    forgetOutcome (exec i s) = forgetOutcome (exec i t) := by
  have henable : s.enable = t.enable := h.read State.enable
  have hguarded : ∀ {p : Proc Response}, Proc.Forgetful p → forgetOutcome (guarded p s) = forgetOutcome (guarded p t) :=
    fun hp => forgetOutcome_guarded h (h.run hp)
  have hgetter : ∀ f : State → Response, (∀ u, f u = f (forgetUnread u)) →
      forgetOutcome (guarded (Proc.pure (f s)) s) = forgetOutcome (guarded (Proc.pure (f t)) t) :=
    fun f hf => forgetOutcome_guarded h ⟨h.read f hf, h⟩
  cases i with
  | init => exact forgetOutcome_execInit h
  | term => exact hguarded pTerm_forgetful
  | setEnable arg => exact hguarded (pSetEnable_forgetful arg)
  | setDelay arg => exact hguarded (pSetDelay_forgetful arg)
  | setPosition arg => exact hguarded (pSetPosition_forgetful arg)
  | setAveraging arg => exact hguarded (pSetAveraging_forgetful arg)
  | measure => exact hguarded pMeasure_forgetful
  | extSelfTest =>
    simp only [exec, execExtSelfTest, henable]
    exact hguarded (selfTest_forgetful _)
  | extSensitivity =>
    simp only [exec, execExtSensitivity, henable]
    exact hguarded (sensitivity_forgetful _)
  | extNoiseTest =>
    simp only [exec, execExtNoiseTest, henable]
    exact hguarded (noise_forgetful _)
  | getEnable => exact hgetter (fun u => okResponse (boolWord u.enable) 0 0 0) fun _ => rfl
  | getDelay => exact hgetter (fun u => okResponse u.delay 0 0 0) fun _ => rfl
  | getPosition => exact hgetter (fun u => okResponse (u.position.setWidth 32) 0 0 0) fun _ => rfl
  | getAveraging => exact hgetter (fun u => okResponse (u.avg.setWidth 32) 0 0 0) fun _ => rfl
  | extGetRaw =>
    exact hgetter (fun u => okResponse (u.lastRaw.c0.setWidth 32) (u.lastRaw.c1.setWidth 32) (u.lastRaw.c2.setWidth 32)
      (u.lastRawT.setWidth 32)) fun _ => rfl
  | extGetHwOffset =>
    exact hgetter (fun u => okResponse (u.hwoff.c0.signExtend 32) (u.hwoff.c1.signExtend 32) (u.hwoff.c2.signExtend 32) 0)
      fun _ => rfl

/-- Settles O13: the port shows both states the same word, and the command it names ends alike (`forgetOutcome_exec`). -/
theorem unreadRegistersCarryNothing : Obligations.UnreadRegistersCarryNothing := by
  intro s t h
  have h : SameView forgetUnread s t := h
  have hport : s.port = t.port := h.read State.port
  unfold step fetchCommand
  rw [hport]
  cases t.port with
  | nil => exact congrArg Host.Outcome.next h
  | cons w rest =>
    have htaken : SameView forgetUnread { s with port := rest, trace := [] } { t with port := rest, trace := [] } :=
      h.lift fun u => { u with port := rest, trace := [] }
    dsimp only
    cases decode w with
    | command i => exact forgetOutcome_exec i htaken
    | illegalOpcode op => exact congrArg Host.Outcome.next (htaken.lift (respondError .invalidArgument))
    | illegalExt arg => exact forgetOutcome_guarded htaken (htaken.run (raise_blind forgetUnread_busView _))

end Sys2Proof.Machine
end

section
/-! Settles the statements of the state family on what commands leave alone: the access matrix (10_state.md R38) and the
logical clock (60_exceptions.md R237). -/

namespace Sys2Proof.Machine

/-! ### The commands' procedures leave a property alone -/

section
variable {I : State → Prop}

theorem pTerm_stable (h : BusKept I) (hi : ∀ s, I s → I { s with initialized := false }) : Proc.Stable I pTerm := by
  intro s t hs
  unfold pTerm
  refine (show Proc.Stable I _ from Proc.bind_stable
    (Proc.ite_stable (Proc.attempt_stable h.disable) (Proc.pure_stable I _)) fun e =>
      Proc.andThen_stable (Proc.modify_stable hi) ?_) s t hs
  cases e with
  | ok _ => exact Proc.pure_stable I okEmpty
  | error _ => exact raise_stable I .deviceCommunication

theorem pSetEnable_stable (h : LoadKept I) (arg : Word) : Proc.Stable I (pSetEnable arg) := by
  intro s t hs
  unfold pSetEnable
  split
  · exact Proc.pure_stable I okEmpty s t hs
  · exact Proc.andThen_stable (Proc.ite_stable h.enable h.toBusKept.disable) (Proc.pure_stable I okEmpty) s t hs

theorem pSetDelay_stable (h : LoadKept I) {arg : Word} (hd : ∀ s, I s → I { s with delay := arg }) :
    Proc.Stable I (pSetDelay arg) := by
  intro s t hs
  unfold pSetDelay
  split
  · exact h.reapply _ t (hd s hs)
  · exact raise_stable I .invalidArgument s t hs

theorem pSetAveraging_stable (h : LoadKept I) {arg : Word} (ha : ∀ s, I s → I { s with avg := arg.setWidth 2 }) :
    Proc.Stable I (pSetAveraging arg) := by
  intro s t hs
  unfold pSetAveraging
  split
  · exact h.reapply _ t (ha s hs)
  · exact raise_stable I .invalidArgument s t hs

theorem pSetPosition_stable {arg : Word} (hp : ∀ s, I s → I { s with position := arg.setWidth 3 }) :
    Proc.Stable I (pSetPosition arg) := by
  intro s t hs
  unfold pSetPosition
  split
  · exact Proc.answer_stable (g := fun _ => okEmpty) hp s t hs
  · exact raise_stable I .invalidArgument s t hs

end

/-! ### The access matrix -/

/-- The frame the access matrix gives a command (10_state.md R38): a register is as it was unless marked with w. -/
structure MatrixFrame (i : Instr) (s t : State) : Prop where
  initialized : writesInitialized i = false → t.initialized = s.initialized
  power : writesEnable i = false → t.enable = s.enable ∧ t.busOpen = s.busOpen
  delay : writesDelay i = false → t.delay = s.delay
  avg : writesAvg i = false → t.avg = s.avg
  position : writesPosition i = false → t.position = s.position
  fsm : writesFsm i s = false → t.mstate = s.mstate ∧ t.invalid = s.invalid ∧ t.onset = s.onset ∧ t.base = s.base
  lclk : writesLclk i = false → t.lclk = s.lclk
  model : writesModel i s = false → t.model = s.model ∧ t.freeDraws = s.freeDraws
  hwoff : writesHwoff i s = false → t.hwoff = s.hwoff
  lastRaw : writesLastRaw i = false → t.lastRaw = s.lastRaw ∧ t.lastRawT = s.lastRawT
  cfg : t.cfg = s.cfg
  port : t.port = s.port

/-- A cell marked with w asks nothing of its register. -/
theorem frame_of_marked {marked : Bool} {P : Prop} (h : marked = true) : marked = false → P :=
  fun h' => absurd (h.symm.trans h') (by decide)

section
variable {i : Instr} {s : State}

theorem MatrixFrame.refl (i : Instr) (s : State) : MatrixFrame i s s where
  initialized _ := rfl
  power _ := ⟨rfl, rfl⟩
  delay _ := rfl
  avg _ := rfl
  position _ := rfl
  fsm _ := ⟨rfl, rfl, rfl, rfl⟩
  lclk _ := rfl
  model _ := ⟨rfl, rfl⟩
  hwoff _ := rfl
  lastRaw _ := ⟨rfl, rfl⟩
  cfg := rfl
  port := rfl

theorem MatrixFrame.deliver {t : State} (r : Response) (h : MatrixFrame i s t) : MatrixFrame i s (deliver r t) :=
  { h with }

/-- A command that may write ENABLE may use the bus as it likes. -/
theorem MatrixFrame.busKept (hpower : writesEnable i = true) : BusKept (MatrixFrame i s) where
  adv _ _ _ h := { h with }
  bo _ _ h := { h with power := frame_of_marked hpower }
  en _ _ h := { h with power := frame_of_marked hpower }

/-- A command that may write the model, HWOFF and the measurement state too may run P_RESET_DECODE. -/
theorem MatrixFrame.loadKept (hpower : writesEnable i = true) (hfsm : writesFsm i s = true)
    (hmodel : writesModel i s = true) (hhwoff : writesHwoff i s = true) : LoadKept (MatrixFrame i s) where
  toBusKept := busKept hpower
  c0 _ _ h := { h with model := frame_of_marked hmodel, hwoff := frame_of_marked hhwoff }
  c1 _ _ h := { h with model := frame_of_marked hmodel, hwoff := frame_of_marked hhwoff }
  rm _ h := { h with fsm := frame_of_marked hfsm }

/-- A command that may write LAST_RAW may run P_SAMPLE. -/
theorem MatrixFrame.sampleKept (hraw : writesLastRaw i = true) : SampleKept (MatrixFrame i s) where
  adv _ _ _ h := { h with }
  sm _ _ h := by rw [sampled_eq]; exact { h with lastRaw := frame_of_marked hraw }

/-- A command that may write the measurement state and LCLK too may run P_MEASURE. -/
theorem MatrixFrame.measureKept (hraw : writesLastRaw i = true) (hfsm : writesFsm i s = true)
    (hlclk : writesLclk i = true) : MeasureKept (MatrixFrame i s) where
  toSampleKept := sampleKept hraw
  q _ h := by rw [quantised_eq]; exact { h with }
  tm _ h := by rw [timed_eq]; exact { h with }
  coil _ _ h _ := { h with fsm := frame_of_marked hfsm }
  nrm _ _ h _ := by rw [fsmNormal_eq]; exact { h with fsm := frame_of_marked hfsm }
  rcd _ _ h _ := by rw [fsmRecordData_eq]; exact { h with fsm := frame_of_marked hfsm }
  tk _ h := by rw [tickClock_eq]; exact { h with lclk := frame_of_marked hlclk }

theorem MatrixFrame.uLinearAcc {t : State} (d : Tri Int) (h : MatrixFrame i s t) : MatrixFrame i s (uLinearAcc d t) := by
  rw [uLinearAcc_eq]; exact { h with }

end

theorem execInit_frame {s t : State} (h : execInit s = .next t) : MatrixFrame .init s t := by
  have hrefl := MatrixFrame.refl .init s
  obtain ⟨_, rfl⟩ | ⟨_, hb, n, evs, ⟨e, rfl⟩ | rfl⟩ := execInit_next h
  · exact hrefl.deliver _
  · exact { hrefl with }
  · exact {
      hrefl with
      initialized := frame_of_marked rfl
      power := frame_of_marked rfl
      delay := frame_of_marked rfl
      avg := frame_of_marked rfl
      position := frame_of_marked rfl
      fsm := frame_of_marked rfl
      lclk := frame_of_marked rfl
      hwoff := frame_of_marked rfl
      lastRaw := frame_of_marked rfl }

/-- Every command stays within its row of the matrix. -/
theorem exec_frame {i : Instr} {s t : State} (h : exec i s = .next t) : MatrixFrame i s t := by
  have hguarded : ∀ {p : Proc Response}, guarded p s = .next t → Proc.Stable (MatrixFrame i s) p → MatrixFrame i s t :=
    fun hp hs => guarded_keeps hp hs (fun r _ => .deliver r) (.refl i s)
  cases i with
  | init => exact execInit_frame h
  | term =>
    exact hguarded h (pTerm_stable (MatrixFrame.busKept rfl) fun _ hu => { hu with initialized := frame_of_marked rfl })
  | setEnable arg => exact hguarded h (pSetEnable_stable (MatrixFrame.loadKept rfl rfl rfl rfl) arg)
  | setDelay arg =>
    exact hguarded h (pSetDelay_stable (MatrixFrame.loadKept rfl rfl rfl rfl) fun _ hu =>
      { hu with delay := frame_of_marked rfl })
  | setAveraging arg =>
    exact hguarded h (pSetAveraging_stable (MatrixFrame.loadKept rfl rfl rfl rfl) fun _ hu =>
      { hu with avg := frame_of_marked rfl })
  | setPosition arg => exact hguarded h (pSetPosition_stable fun _ hu => { hu with position := frame_of_marked rfl })
  | measure => exact hguarded h (MatrixFrame.measureKept rfl rfl rfl).measure
  | extSelfTest =>
    exact hguarded h (selfTest_stable (MatrixFrame.loadKept rfl rfl rfl rfl) (MatrixFrame.sampleKept rfl)
      (fun _ hu => { hu with }) s.enable)
  | extSensitivity =>
    cases he : s.enable with
    | true =>
      simp only [exec, execExtSensitivity, he] at h
      exact hguarded h (sensitivity_enabled_stable (MatrixFrame.busKept rfl) (MatrixFrame.sampleKept rfl)
        fun _ d hu => hu.uLinearAcc d)
    | false =>
      have hmarked : (!s.enable) = true := by rw [he]; rfl
      have hload : LoadKept (MatrixFrame .extSensitivity s) := MatrixFrame.loadKept rfl hmarked hmarked hmarked
      exact hguarded h (sensitivity_stable hload (MatrixFrame.sampleKept rfl) (fun _ d hu => hu.uLinearAcc d) s.enable)
  | extNoiseTest =>
    cases he : s.enable with
    | true =>
      simp only [exec, execExtNoiseTest, he] at h
      exact hguarded h (noise_enabled_stable (MatrixFrame.busKept rfl) (MatrixFrame.measureKept rfl rfl rfl))
    | false =>
      have hmarked : (!s.enable) = true := by rw [he]; rfl
      have hload : LoadKept (MatrixFrame .extNoiseTest s) := MatrixFrame.loadKept rfl rfl hmarked hmarked
      exact hguarded h (noise_stable hload (MatrixFrame.measureKept rfl rfl rfl) s.enable)
  | getEnable | getDelay | getPosition | getAveraging | extGetRaw | extGetHwOffset =>
    exact hguarded h (Proc.pure_stable _ _)

/-- Settles O60: register by register, the frame of the command's row (`exec_frame`). -/
theorem accessMatrixFrames : Obligations.AccessMatrixFrames := fun _ _ _ hexec =>
  have h := exec_frame hexec
  ⟨h.initialized, h.power, h.delay, h.avg, h.position, h.fsm, h.lclk, h.model, h.hwoff, h.lastRaw, h.cfg, h.port⟩

/-! ### The logical clock -/

/-- Wherever the procedure ends without a fault from this state, the property holds. -/
def Proc.EndsWith {α : Type} (P : State → Prop) (p : Proc α) (s : State) : Prop :=
  ∀ t, (∀ a, p s = .ok a t → P t) ∧ (∀ e, p s = .err e t → P t)

theorem Proc.Stable.endsWith {α : Type} {P : State → Prop} {p : Proc α} (h : Proc.Stable P p) {s : State} (hs : P s) :
    p.EndsWith P s := fun t => h s t hs

theorem Proc.EndsWith.bind {α β : Type} {P : State → Prop} {p : Proc α} {q : α → Proc β} {s : State}
    (hp : p.EndsWith P s) (hq : ∀ a, Proc.Stable P (q a)) : (p.bind q).EndsWith P s := by
  intro t
  unfold Proc.bind
  cases hr : p s with
  | ok a u => exact hq a u t ((hp u).1 a hr)
  | err e u => exact raise_stable P e u t ((hp u).2 e hr)
  | fault _ => exact ⟨fun _ h => (by cases h), fun _ h => (by cases h)⟩

theorem Proc.EndsWith.attempt {α : Type} {P : State → Prop} {p : Proc α} {s : State} (hp : p.EndsWith P s) :
    p.attempt.EndsWith P s := by
  intro t
  unfold Proc.attempt
  cases hr : p s with
  | ok a u => exact Proc.pure_stable P (Except.ok a) u t ((hp u).1 a hr)
  | err e u => exact Proc.pure_stable P (Except.error e) u t ((hp u).2 e hr)
  | fault _ => exact ⟨fun _ h => (by cases h), fun _ h => (by cases h)⟩

theorem Proc.EndsWith.withCleanup {α : Type} {P : State → Prop} {b : Proc α} {c : Proc Unit} {s : State}
    (hb : b.EndsWith P s) (hc : Proc.Stable P c) : (b.withCleanup c).EndsWith P s :=
  hb.attempt.bind fun r => Proc.bind_stable (Proc.ignore_stable hc) fun _ => by
    cases r with
    | ok a => exact Proc.pure_stable P a
    | error e => exact raise_stable P e

/-- A command of an initialised session ends where its procedure does. -/
theorem guarded_endsWith {P : State → Prop} {p : Proc Response} {s t : State} (h : guarded p s = .next t)
    (hi : s.initialized = true) (hp : p.EndsWith P s) (hd : ∀ r u, P u → P (deliver r u)) : P t := by
  obtain ⟨hi', _⟩ | ⟨_, ⟨a, u, hu, rfl⟩ | ⟨e, u, hu, rfl⟩⟩ := guarded_next h
  · exact absurd (hi.symm.trans hi') (by decide)
  · exact hd _ _ ((hp u).1 a hu)
  · exact hd _ _ ((hp u).2 e hu)

/-- The property speaks of LCLK, DELAY and the configuration only. -/
def OnClock (I : State → Prop) : Prop := ∀ u v : State, v.lclk = u.lclk → v.delay = u.delay → v.cfg = u.cfg → I u → I v

/-- Bus, reload and the writes of ENABLE do not meet the clock. -/
theorem OnClock.loadKept {I : State → Prop} (h : OnClock I) : LoadKept I where
  adv u _ _ := h u _ rfl rfl rfl
  bo u _ := h u _ rfl rfl rfl
  en u _ := h u _ rfl rfl rfl
  c0 u _ := h u _ rfl rfl rfl
  c1 u _ := h u _ rfl rfl rfl
  rm u := h u _ rfl rfl rfl

/-- Past the tick of its first step P_MEASURE leaves the clock alone (45_host_commands.md R197). -/
theorem OnClock.pipelineKept {I : State → Prop} (h : OnClock I) : PipelineKept I where
  adv u _ _ := h u _ rfl rfl rfl
  sm u D := by rw [sampled_eq]; exact h u _ rfl rfl rfl
  q u := by rw [quantised_eq]; exact h u _ rfl rfl rfl
  tm u := by rw [timed_eq]; exact h u _ rfl rfl rfl
  coil u _ hu _ := h u _ rfl rfl rfl hu
  nrm u now hu _ := by rw [fsmNormal_eq]; exact h u _ rfl rfl rfl hu
  rcd u now hu _ := by rw [fsmRecordData_eq]; exact h u _ rfl rfl rfl hu

/-- LCLK stands at this value. -/
def LclkIs (x : Word) (s : State) : Prop := s.lclk = x

theorem lclkIs_onClock (x : Word) : OnClock (LclkIs x) := fun _ _ hlclk _ _ hu => hlclk.trans hu

/-- Where P_MEASURE leaves LCLK, however it ends (60_exceptions.md R237). -/
theorem pMeasure_lclk (s : State) : pMeasure.EndsWith (LclkIs (tickClock s).lclk) s := fun _ =>
  (lclkIs_onClock _).pipelineKept.afterTick rfl

theorem tickClock_lclk_without {s : State} (h : s.cfg.hasClock = false) : (tickClock s).lclk = s.lclk + s.delay := by
  unfold tickClock; rw [h]; rfl

theorem tickClock_lclk_with {s : State} (h : s.cfg.hasClock = true) : (tickClock s).lclk = s.lclk := by
  unfold tickClock; rw [h]; rfl

/-- What the noise test does with its sample leaves LCLK alone (44_self_test_controller.md R165). -/
theorem noiseSample_lclk (s : State) : (pMeasure.bind fun _ => fun s =>
    .ok (okResponse (noiseDeviation s.lastRaw.c0) (noiseDeviation s.lastRaw.c1) (noiseDeviation s.lastRaw.c2) 0) s).EndsWith
      (LclkIs (tickClock s).lclk) s :=
  (pMeasure_lclk s).bind fun _ => Proc.answer_stable fun _ h => h

/-- The cleanup of the noise test does not tick: LCLK ends where the body leaves it. -/
theorem extNoiseTest_lclk {s t : State} {x : Word} (h : exec .extNoiseTest s = .next t) (hi : s.initialized = true)
    (hbody : (noiseBody s.enable).EndsWith (LclkIs x) s) : t.lclk = x :=
  guarded_endsWith h hi (hbody.withCleanup (noiseCleanup_stable (lclkIs_onClock x).loadKept.toBusKept s.enable)) fun _ _ h => h

/-- On an enabled session the body starts with the sample. -/
theorem noiseBody_enabled_lclk (s : State) : (noiseBody true).EndsWith (LclkIs (tickClock s).lclk) s :=
  noiseSample_lclk s

/-- On a disabled session whose enable succeeds the sample follows, with LCLK, DELAY and the record as they were. -/
theorem noiseBody_disabled_lclk {s u : State} (h : pEnable s = .ok () u) :
    (noiseBody false).EndsWith (LclkIs (tickClock s).lclk) s := by
  have hclock : OnClock fun v => v.lclk = s.lclk ∧ v.delay = s.delay ∧ v.cfg = s.cfg :=
    fun _ _ hlclk hdelay hcfg ⟨hl, hd, hc⟩ => ⟨hlclk.trans hl, hdelay.trans hd, hcfg.trans hc⟩
  obtain ⟨hlclk, hdelay, hcfg⟩ := hclock.loadKept.enable.ok h ⟨rfl, rfl, rfl⟩
  have htick : (tickClock u).lclk = (tickClock s).lclk := by
    unfold tickClock
    rw [hcfg]
    split
    · exact hlclk
    · exact congrArg₂ (· + ·) hlclk hdelay
  intro t
  have hbody : noiseBody false s = _ := Proc.andThen_ok h
  rw [hbody, ← htick]
  exact noiseSample_lclk u t

/-- On a disabled session whose enable fails the body ends there. -/
theorem noiseBody_failed_lclk {s u : State} {e : ErrKind} (h : pEnable s = .err e u) :
    (noiseBody false).EndsWith (LclkIs s.lclk) s := by
  have hbody : noiseBody false s = .err e u := Proc.andThen_err h
  intro t
  rw [hbody]
  exact raise_stable _ e u t ((lclkIs_onClock _).loadKept.enable.err h rfl)

/-- LCLK stands at this value on a machine with a clock. -/
def LclkIsWithClock (x : Word) (s : State) : Prop := s.lclk = x ∧ s.cfg.hasClock = true

theorem lclkIsWithClock_onClock (x : Word) : OnClock (LclkIsWithClock x) := fun _ _ hlclk _ hcfg ⟨hl, hc⟩ =>
  ⟨hlclk.trans hl, hcfg ▸ hc⟩

/-- With a clock a tick changes nothing, so a whole MEASURE keeps LCLK (60_exceptions.md R237). -/
theorem lclkIsWithClock_measureKept (x : Word) : MeasureKept (LclkIsWithClock x) where
  toPipelineKept := (lclkIsWithClock_onClock x).pipelineKept
  tk u := fun ⟨hl, hc⟩ => ⟨(tickClock_lclk_with hc).trans hl, (congrArg Config.hasClock (tickClock_cfg u)).trans hc⟩

/-- The lifecycle guard (45_host_commands.md R181): only INIT does anything on an uninitialised session. -/
theorem exec_uninitialized {i : Instr} {s : State} (hi : i ≠ .init) (h : s.initialized = false) :
    exec i s = .next (respondError .notInitialized s) := by
  cases i with
  | init => exact absurd rfl hi
  | term | setEnable | getEnable | setDelay | getDelay | setPosition | getPosition | setAveraging | getAveraging | measure
  | extSelfTest | extSensitivity | extNoiseTest | extGetRaw | extGetHwOffset => exact guarded_uninitialized h

/-- The matrix marks LCLK for INIT, MEASURE and EXT_NOISE_TEST (10_state.md R38). -/
theorem writesLclk_eq_false {i : Instr} (hinit : i ≠ .init) (hmeasure : i ≠ .measure) (hnoise : i ≠ .extNoiseTest) :
    writesLclk i = false := by
  cases i with
  | init => exact absurd rfl hinit
  | measure => exact absurd rfl hmeasure
  | extNoiseTest => exact absurd rfl hnoise
  | term | setEnable | getEnable | setDelay | getDelay | setPosition | getPosition | setAveraging | getAveraging
  | extSelfTest | extSensitivity | extGetRaw | extGetHwOffset => rfl

theorem lclk_kept_with_clock {i : Instr} {s t : State} (h : exec i s = .next t) (hi : i ≠ .init)
    (hclock : s.cfg.hasClock = true) : t.lclk = s.lclk := by
  have hguarded : ∀ {p : Proc Response}, guarded p s = .next t → Proc.Stable (LclkIsWithClock s.lclk) p →
      t.lclk = s.lclk := fun hp hs =>
    have ⟨hlclk, _⟩ := guarded_keeps hp hs (fun _ _ h => h) ⟨rfl, hclock⟩
    hlclk
  have hmeasured := lclkIsWithClock_measureKept s.lclk
  by_cases hmeasure : i = .measure
  · subst hmeasure
    exact hguarded h hmeasured.measure
  by_cases hnoise : i = .extNoiseTest
  · subst hnoise
    exact hguarded h (noise_stable (lclkIsWithClock_onClock s.lclk).loadKept hmeasured s.enable)
  · exact (exec_frame h).lclk (writesLclk_eq_false hi hmeasure hnoise)

theorem execInit_lclk {s t : State} (h : execInit s = .next t) (ht : t.initialized = true) (hs : s.initialized = false) :
    t.lclk = 0 := by
  obtain ⟨hi, _⟩ | ⟨_, _, n, evs, ⟨e, rfl⟩ | rfl⟩ := execInit_next h
  · exact absurd (hi.symm.trans hs) (by decide)
  · exact absurd (ht.symm.trans hs) (by decide)
  · rfl

/-- Settles O33: a P_MEASURE ends with LCLK where its tick put it (`pMeasure_lclk`), the noise test with it where its body left
it, and every other command keeps it by the access matrix. -/
theorem logicalClockAdvances : Obligations.LogicalClockAdvances := by
  intro i s t h
  refine ⟨?measure, ?noiseEnabled, ?noiseDisabled, ?uninitialized, ?clock, ?others, ?init⟩
  case measure =>
    rintro rfl hi hclock
    rw [← tickClock_lclk_without hclock]
    exact guarded_endsWith h hi (pMeasure_lclk s) fun _ _ h => h
  case noiseEnabled =>
    rintro rfl hi hclock he
    rw [← tickClock_lclk_without hclock]
    exact extNoiseTest_lclk h hi (he ▸ noiseBody_enabled_lclk s)
  case noiseDisabled =>
    rintro rfl hi hclock he
    rw [← tickClock_lclk_without hclock]
    exact ⟨fun u hu => extNoiseTest_lclk h hi (he ▸ noiseBody_disabled_lclk hu),
      fun e u hu => extNoiseTest_lclk h hi (he ▸ noiseBody_failed_lclk hu)⟩
  case uninitialized =>
    intro hinit hi
    obtain rfl := Host.Outcome.next.inj (h.symm.trans (exec_uninitialized hinit hi))
    rfl
  case clock => exact lclk_kept_with_clock h
  case others => exact fun hinit hmeasure hnoise => (exec_frame h).lclk (writesLclk_eq_false hinit hmeasure hnoise)
  case init =>
    rintro rfl ht hs
    exact execInit_lclk h ht hs

end Sys2Proof.Machine
end

section
/-! Settles the statements of the state family on MEASURE in the measurement states Normal and InitCoil (10_state.md R16,
43_measurement_fsm.md R137 to R143). -/

namespace Sys2Proof.Machine

/-! ### What the state machine finds as the command left it -/

section
variable (s : State)

theorem measured_cfg : (measured s).cfg = s.cfg := by rw [measured, timed_eq]; simp [quantised]
theorem measured_busOpen : (measured s).busOpen = s.busOpen := by rw [measured, timed_eq]; simp [quantised]
theorem measured_mstate : (measured s).mstate = s.mstate := by rw [measured, timed_eq]; simp [quantised, sampled]
theorem measured_invalid : (measured s).invalid = s.invalid := by rw [measured, timed_eq]; simp [quantised, sampled]
theorem measured_onset : (measured s).onset = s.onset := by rw [measured, timed_eq]; simp [quantised, sampled]
theorem measured_base : (measured s).base = s.base := by rw [measured, timed_eq]; simp [quantised, sampled]

/-- The sample took one answer of the bus. -/
theorem busOkAt_measured (k : Nat) : busOkAt (measured s) k = busOkAt s (1 + k) := by
  have hscript : (measured s).busScript = s.busScript.drop 1 := by rw [measured, timed_eq]; simp [quantised]
  have hdraws : (measured s).busDraws = s.busDraws + 1 := by rw [measured, timed_eq]; simp [quantised]
  exact (busOkAt_congr (t := advance s 1 []) hscript hdraws k).trans (busOkAt_advance s 1 k [])

end

/-- A MEASURE with a sample ready whose step of the state machine succeeds answers the sample the machine leaves. -/
theorem exec_measure_of_fsm_ok {s u : State} (h : SampleReady s) (hfsm : uFsm (measureTime s) (measured s) = .ok () u) :
    exec .measure s = .next { u with response := some ⟨0, 1, u.q.c0, u.q.c1, u.q.c2, 0⟩ } := by
  have hend : pMeasure s = .ok (sampleResponse u.q) u := (pMeasure_ready h).trans (Proc.andThen_ok hfsm)
  obtain ⟨hi, _⟩ := h
  calc exec .measure s = guarded pMeasure s := rfl
    _ = finish (pMeasure s) := guarded_initialized hi
    _ = _ := by rw [hend]; rfl

/-- One whose step of the state machine raises answers the error. -/
theorem exec_measure_of_fsm_err {s u : State} {e : ErrKind} (h : SampleReady s)
    (hfsm : uFsm (measureTime s) (measured s) = .err e u) :
    exec .measure s = .next { u with response := some (errorResponse e) } := by
  have hend : pMeasure s = .err e u := (pMeasure_ready h).trans (Proc.andThen_err hfsm)
  obtain ⟨hi, _⟩ := h
  calc exec .measure s = guarded pMeasure s := rfl
    _ = finish (pMeasure s) := guarded_initialized hi
    _ = _ := by rw [hend]; rfl

/-! ### State Normal -/

theorem uFsm_normal {now : Word} {s : State} (h : s.mstate = mNormal) : uFsm now s = .ok () (fsmNormal now s) := by
  simp [uFsm, h, mNormal, mInitCoil, mRecordData]

theorem fsmNormal_of_clear {now : Word} {s : State} (h : anomaly s = false) :
    fsmNormal now s = { s with invalid := false } := by
  rw [fsmNormal, h]; rfl

theorem fsmNormal_of_anomaly {now : Word} {s : State} (h : anomaly s = true) : fsmNormal now s =
    { s with
      onset := if s.invalid then s.onset else now, invalid := true, mstate := mInitCoil
      q := if s.ovf = 0#6 then addThree s.q else s.q } := by
  rw [fsmNormal, h]; rfl

/-- The anomaly test on the sample of a MEASURE, whose baseline is the one before it (43_measurement_fsm.md R141). -/
theorem anomaly_measured (s : State) :
    anomaly (measured s) = (drift (measured s).c s.base || (measured s).ovf != 0#6) := by
  rw [anomaly, measured_base]

/-- Settles O29: U_FSM in Normal by the anomaly test, which is drift on some axis (`drift_iff`) or a mask that is not zero. -/
theorem measureInNormal : Obligations.MeasureInNormal := by
  intro s hready hm
  have hfsm := uFsm_normal (now := measureTime s) ((measured_mstate s).trans hm)
  have hexec := exec_measure_of_fsm_ok hready hfsm
  have hflagged (ha : anomaly (measured s) = true) : fsmNormal (measureTime s) (measured s) = _ := fsmNormal_of_anomaly ha
  rw [measured_invalid, measured_onset] at hflagged
  refine ⟨fun hclose hovf => ?_, fun hfar hovf => ?_, fun hovf => ?_⟩
  · have hdrift : drift (measured s).c s.base = false := by
      rw [← Bool.not_eq_true, drift_iff]
      exact fun ⟨i, hi⟩ => absurd (hclose i) (Nat.not_le.mpr hi)
    rw [hexec, fsmNormal_of_clear (by rw [anomaly_measured, hdrift, hovf]; rfl)]
  · rw [hexec, hflagged (by rw [anomaly_measured, (drift_iff _ _).mpr hfar, Bool.true_or]), if_pos hovf]
    rfl
  · rw [hexec, hflagged (by rw [anomaly_measured, bne_iff_ne.mpr hovf, Bool.or_true]), if_neg hovf]
    rfl

/-! ### State InitCoil -/

theorem uFsm_initCoil {now : Word} {s : State} (h : s.mstate = mInitCoil) : uFsm now s = fsmInitCoil now s := if_pos h

theorem fsmInitCoil_of_early {now : Word} {s : State} (h : elapsedMs now s.onset < s.cfg.initCoilTimeoutMs) :
    fsmInitCoil now s = .ok () s := if_neg (Nat.not_le.mpr h)

theorem fsmInitCoil_of_due {now : Word} {s : State} (h : s.cfg.initCoilTimeoutMs ≤ elapsedMs now s.onset) :
    fsmInitCoil now s =
      (primMemWrite s.cfg.dev.regConf s.cfg.dev.valConfRcoil).andThen (Proc.modify (coilDone now)) s := if_pos h

/-- Settles O30: U_FSM in InitCoil before the timeout, and from then on by the answer to the coil write. -/
theorem measureInInitCoil : Obligations.MeasureInInitCoil := by
  intro s hready hm
  have hfsm := uFsm_initCoil (now := measureTime s) ((measured_mstate s).trans hm)
  have hbus : (measured s).busOpen = true := by
    obtain ⟨_, _, hb, _⟩ := hready
    exact (measured_busOpen s).trans hb
  refine ⟨fun hearly => ?_, fun hdue hok => ?_, fun hdue hfail => ?_⟩
  · rw [← measured_onset, ← measured_cfg] at hearly
    exact exec_measure_of_fsm_ok hready (hfsm.trans (fsmInitCoil_of_early hearly))
  · rw [← measured_onset, ← measured_cfg] at hdue
    have hwrite := primMemWrite_ok (a := s.cfg.dev.regConf) (v := s.cfg.dev.valConfRcoil) hbus
      ((busOkAt_measured s 0).trans hok)
    rw [exec_measure_of_fsm_ok hready (hfsm.trans ((fsmInitCoil_of_due hdue).trans
      (by rw [measured_cfg]; exact Proc.andThen_ok hwrite)))]
    rfl
  · rw [← measured_onset, ← measured_cfg] at hdue
    have hwrite := primMemWrite_err (a := s.cfg.dev.regConf) (v := s.cfg.dev.valConfRcoil) hbus
      ((busOkAt_measured s 0).trans hfail)
    exact exec_measure_of_fsm_err hready (hfsm.trans ((fsmInitCoil_of_due hdue).trans
      (by rw [measured_cfg]; exact Proc.andThen_err hwrite)))

end Sys2Proof.Machine
end

section
/-! Settles the statements of the memory family: the eight bytes of a sample and what P_SAMPLE does with them (30_encoding.md
R69, 45_host_commands.md R196, 60_exceptions.md R235), and the decoder's writes under the default device (20_memory.md R44,
30_encoding.md R76, 40_calibration_decoder.md R94, R95). -/

namespace Sys2Proof.Machine

/-! ### Concatenations, besides the rules of Laws/Bits -/

/-- A bit inside the upper part. -/
theorem getLsbD_append_upper {n m : Nat} (x : BitVec n) (y : BitVec m) (k : Nat) :
    (x ++ y).getLsbD (m + k) = x.getLsbD k := by
  simp [BitVec.getLsbD_append]

/-- The lowest bit, where the lower part is a single truth value. -/
theorem getLsbD_append_ofBool {n : Nat} (x : BitVec n) (b : Bool) : (x ++ BitVec.ofBool b).getLsbD 0 = b := by
  rw [BitVec.getLsbD_append, if_pos Nat.one_pos]
  simp

/-- The field that is the whole lower part. -/
theorem extractLsb_append_last {n m : Nat} (x : BitVec n) (y : BitVec m) : (x ++ y).extractLsb' 0 m = y :=
  (extractLsb_append_lower x y 0 m (Nat.zero_add m).le).trans (extractLsb_whole y)

/-! ### The fields of a sample -/

/-- The bytes of W, most significant first, put together again are W: each byte is adjacent to those before it (R69). -/
theorem sampleString_of_bytes (W : BitVec 64) : sampleString (fun j => W.extractLsb' (8 * (7 - j.val)) 8) = W := by
  change W.extractLsb' 56 8 ++ W.extractLsb' 48 8 ++ W.extractLsb' 40 8 ++ W.extractLsb' 32 8 ++ W.extractLsb' 24 8 ++
    W.extractLsb' 16 8 ++ W.extractLsb' 8 8 ++ W.extractLsb' 0 8 = W
  rw [extractLsb_adjacent W 48 8 8, extractLsb_adjacent W 40 16 8, extractLsb_adjacent W 32 24 8,
    extractLsb_adjacent W 24 32 8, extractLsb_adjacent W 16 40 8, extractLsb_adjacent W 8 48 8, extractLsb_adjacent W 0 56 8]
  exact extractLsb_whole W

section
variable (t : BitVec 16) (busy bad : Bool) (x y1 y2 : BitVec 14) (i1 i2 : BitVec 2)

/-- W made of its fields, T first, with the ignored bits `i1` and `i2` above Y1 and Y2 (R69). -/
def sampleWord : BitVec 64 := t ++ BitVec.ofBool busy ++ BitVec.ofBool bad ++ x ++ i1 ++ y1 ++ i2 ++ y2

theorem sampleWord_t : (sampleWord t busy bad x y1 y2 i1 i2).extractLsb' 48 16 = t := by
  unfold sampleWord
  rw [extractLsb_append_upper _ y2 34, extractLsb_append_upper _ i2 32, extractLsb_append_upper _ y1 18,
    extractLsb_append_upper _ i1 16, extractLsb_append_upper _ x 2, extractLsb_append_upper _ _ 1,
    extractLsb_append_upper _ _ 0]
  exact extractLsb_whole t

theorem sampleWord_busy : (sampleWord t busy bad x y1 y2 i1 i2).getLsbD 47 = busy := by
  unfold sampleWord
  rw [getLsbD_append_upper _ y2 33, getLsbD_append_upper _ i2 31, getLsbD_append_upper _ y1 17,
    getLsbD_append_upper _ i1 15, getLsbD_append_upper _ x 1, getLsbD_append_upper _ _ 0]
  exact getLsbD_append_ofBool t busy

theorem sampleWord_bad : (sampleWord t busy bad x y1 y2 i1 i2).getLsbD 46 = bad := by
  unfold sampleWord
  rw [getLsbD_append_upper _ y2 32, getLsbD_append_upper _ i2 30, getLsbD_append_upper _ y1 16,
    getLsbD_append_upper _ i1 14, getLsbD_append_upper _ x 0]
  exact getLsbD_append_ofBool _ bad

theorem sampleWord_x : (sampleWord t busy bad x y1 y2 i1 i2).extractLsb' 32 14 = x := by
  unfold sampleWord
  rw [extractLsb_append_upper _ y2 18, extractLsb_append_upper _ i2 16, extractLsb_append_upper _ y1 2,
    extractLsb_append_upper _ i1 0]
  exact extractLsb_append_last _ x

theorem sampleWord_y1 : (sampleWord t busy bad x y1 y2 i1 i2).extractLsb' 16 14 = y1 := by
  unfold sampleWord
  rw [extractLsb_append_upper _ y2 2, extractLsb_append_upper _ i2 0]
  exact extractLsb_append_last _ y1

theorem sampleWord_y2 : (sampleWord t busy bad x y1 y2 i1 i2).extractLsb' 0 14 = y2 :=
  extractLsb_append_last _ y2

/-- The ignored bits reach no field (R69). -/
theorem parseSample_of_bytes :
    parseSample (fun j => (sampleWord t busy bad x y1 y2 i1 i2).extractLsb' (8 * (7 - j.val)) 8) =
      ⟨t, x, y1, y2, busy, bad⟩ := by
  rw [parseSample, sampleString_of_bytes, sampleWord_t, sampleWord_busy, sampleWord_bad, sampleWord_x, sampleWord_y1,
    sampleWord_y2]

end

/-! ### P_SAMPLE -/

/-- What a capture stores, the three words zero-extended by value (R196). -/
theorem captureSample_eq (D : Fin 8 → Byte) (s : State) : captureSample D s =
    { s with
      raw := parseSample D
      lastRaw := ⟨BitVec.ofNat 16 (parseSample D).x.toNat, BitVec.ofNat 16 (parseSample D).y1.toNat,
        BitVec.ofNat 16 (parseSample D).y2.toNat⟩
      lastRawT := (parseSample D).t } := by
  simp only [BitVec.ofNat_toNat]
  rfl

/-- A P_SAMPLE whose read fails (R196, R235). -/
theorem pSample_err {s : State} (hb : s.busOpen = true) (hk : busOkAt s 0 = false) :
    pSample s = .err .deviceCommunication (advance s 1 [.read s.cfg.dev.regData 8 none]) :=
  Proc.bind_err (primMemRead_err hb hk)

/-- Settles O6: the fields by their places in W, the capture by its stores, P_SAMPLE by the answer to its read. -/
theorem sampleFieldsParsed : Obligations.SampleFieldsParsed := by
  refine ⟨parseSample_of_bytes, fun D s => ?_, fun s hb => ⟨pSample_ok hb, pSample_err hb⟩⟩
  rw [← captureSample_eq]
  rfl

/-! ### The decoder's writes under the default device -/

/-- TRIM0 to TRIM11, then the three offsets, HCK and LCK, with the bytes of the block as they are (R94). -/
theorem v0Writes_default (B : CalBlock) : v0Writes defaultDev B =
    [(0x93, B 0), (0x94, B 1), (0x95, B 2), (0x96, B 3), (0x97, B 4), (0x98, B 5), (0x99, B 6), (0x9A, B 7), (0x9B, B 8),
     (0x9C, B 9), (0x9D, B 10), (0x9E, B 11)] ++
    [(0x84, B 12), (0x85, B 13), (0x86, B 14), (0x88, B 15), (0x89, B 16)] := by
  rfl

/-- Trims and offsets in turn, then the derived bytes (R95); OCR is at TRIM11's address (R44). -/
theorem v1Writes_default (B : CalBlock) : v1Writes defaultDev B =
    [(0x93, B 0), (0x84, B 12), (0x94, B 1), (0x85, B 13), (0x95, B 2), (0x86, B 14), (0x96, trim3Byte B), (0x88, hckByte B),
     (0x89, lckByte B), (0x9E, ocrByte B)] := by
  rfl

/-- Settles O18: the two lists, the second with its derived bytes written out (R76). -/
theorem decoderWriteLists : Obligations.DecoderWriteLists := fun B => ⟨v0Writes_default B, v1Writes_default B⟩

end Sys2Proof.Machine
end

section
/-! Settles the statements of the encoding family on command words: the command map and its inverse (30_encoding.md R61, R63,
R64, R74, R77, R79), and what a step does with the word at the port (45_host_commands.md R180, R181). -/

namespace Sys2Proof.Machine

/-! ### The two directions of the command map -/

theorem encodedArg_of_ignoresArg {i : Instr} (h : ignoresArg i = true) : encodedArg i = 0 := by
  cases i with
  | init | term | getEnable | getDelay | getPosition | getAveraging | measure => rfl
  | setEnable | setDelay | setPosition | setAveraging | extSelfTest | extSensitivity | extNoiseTest | extGetRaw
  | extGetHwOffset => cases h

/-- A sub-command is decoded from its own number (R64). -/
theorem decodeExt_command {a : Word} {i : Instr} (h : decodeExt a = .command i) :
    opcodeOf i = 0x0C#8 ∧ encodedArg i = a := by
  rw [decodeExt] at h
  iterate 5
    obtain ⟨ha, hi⟩ | ⟨_, h⟩ := ite_eq_iff.mp h
    · obtain rfl := Decoded.command.inj hi
      exact ⟨rfl, ha.symm⟩
  cases h

/-- A word that decodes carries the opcode of its command and, unless the command ignores it, the command's `arg` (R79). -/
theorem fields_of_decode {w : CommandWord} {i : Instr} (h : decode w = .command i) :
    opcodeOf i = opField w ∧ (ignoresArg i = false → encodedArg i = argField w) := by
  rw [decode] at h
  iterate 11
    obtain ⟨hop, hi⟩ | ⟨_, h⟩ := ite_eq_iff.mp h
    · obtain rfl := Decoded.command.inj hi
      exact ⟨hop.symm, by simp [ignoresArg, encodedArg]⟩
  obtain ⟨hop, hext⟩ | ⟨_, h⟩ := ite_eq_iff.mp h
  · obtain ⟨hcode, harg⟩ := decodeExt_command hext
    exact ⟨hcode.trans hop.symm, fun _ => harg⟩
  · cases h

/-- A word with the opcode of a command and, unless the command ignores it, the command's `arg` decodes to it (R63, R64). -/
theorem decode_of_fields {w : CommandWord} {i : Instr} (hop : opField w = opcodeOf i)
    (harg : ignoresArg i = false → argField w = encodedArg i) : decode w = .command i := by
  cases i with
  | init | term | getEnable | getDelay | getPosition | getAveraging | measure => simp [decode, hop, opcodeOf]
  | setEnable a | setDelay a | setPosition a | setAveraging a => simp [decode, hop, harg rfl, opcodeOf, encodedArg]
  | extSelfTest | extSensitivity | extNoiseTest | extGetRaw | extGetHwOffset =>
    simp [decode, decodeExt, hop, harg rfl, opcodeOf, encodedArg]

/-- The same for a word put together from its two fields (R61). -/
theorem decode_append {op : Byte} {a : Word} (i : Instr) (hop : op = opcodeOf i)
    (harg : ignoresArg i = false → a = encodedArg i) : decode (op ++ a) = .command i :=
  decode_of_fields ((opField_append op a).trans hop) fun h => (argField_append op a).trans (harg h)

theorem decode_encode (i : Instr) : decode (encode i) = .command i := decode_append i rfl fun _ => rfl

/-- R74 (a): opcodes outside 0x01 to 0x0C name no command. -/
theorem decode_illegalOpcode {w : CommandWord} (h : (opField w).toNat = 0 ∨ 0x0D ≤ (opField w).toNat) :
    decode w = .illegalOpcode (opField w) := by
  have hne : ∀ n < 13, 0 < n → opField w ≠ BitVec.ofNat 8 n := by
    intro n hn hpos heq
    rw [heq, BitVec.toNat_ofNat] at h
    omega
  unfold decode
  iterate 12 rw [if_neg (hne _ (by decide) (by decide))]

/-- R74 (b): numbers outside 1 to 5 name no sub-command. -/
theorem decode_illegalExt {w : CommandWord} (hop : opField w = 0x0C#8)
    (h : (argField w).toNat = 0 ∨ 5 < (argField w).toNat) : decode w = .illegalExt (argField w) := by
  have hne : ∀ n < 6, 0 < n → argField w ≠ BitVec.ofNat 32 n := by
    intro n hn hpos heq
    rw [heq, BitVec.toNat_ofNat] at h
    omega
  have hext : decodeExt (argField w) = .illegalExt (argField w) := by
    unfold decodeExt
    iterate 5 rw [if_neg (hne _ (by decide) (by decide))]
  rw [← hext]
  simp [decode, hop]

/-- Settles O1, by the opcode and the `arg` of the encoded word (`decode_of_fields`). -/
theorem decodeEncodeRoundTrip : Obligations.DecodeEncodeRoundTrip := fun i _ => decode_encode i

/-- Settles O2: each legal line by the opcode and `arg` of its command, the last two by the illegal ranges. -/
theorem commandMap : Obligations.CommandMap := by
  intro arg
  refine ⟨decode_append .init rfl nofun, decode_append .term rfl nofun, decode_append (.setEnable arg) rfl fun _ => rfl,
    decode_append .getEnable rfl nofun, decode_append (.setDelay arg) rfl fun _ => rfl, decode_append .getDelay rfl nofun,
    decode_append (.setPosition arg) rfl fun _ => rfl, decode_append .getPosition rfl nofun,
    decode_append (.setAveraging arg) rfl fun _ => rfl, decode_append .getAveraging rfl nofun,
    decode_append .measure rfl nofun, decode_encode .extSelfTest, decode_encode .extSensitivity,
    decode_encode .extNoiseTest, decode_encode .extGetRaw, decode_encode .extGetHwOffset, fun harg => ?ext, fun op hop => ?op⟩
  case ext =>
    have h := decode_illegalExt (w := 0x0C#8 ++ arg) (opField_append _ _)
    rw [argField_append] at h
    exact h harg
  case op =>
    have h := decode_illegalOpcode (w := op ++ arg)
    rw [opField_append] at h
    exact h hop

/-- Settles O3: the fields of the word are those of the command (`fields_of_decode`), and they are the whole word. -/
theorem decodedWordKeepsItsBits : Obligations.DecodedWordKeepsItsBits := by
  intro w i h
  obtain ⟨hop, harg⟩ := fields_of_decode h
  refine ⟨hop, fun htakes => ?_, encodedArg_of_ignoresArg⟩
  rw [encode, hop, harg htakes]
  exact append_fields w

/-- Settles O4: each word is its command's encoding. -/
theorem tableWordsDecode : Obligations.TableWordsDecode := by
  have hword : ∀ {w : CommandWord} (i : Instr), w = encode i → decode w = .command i := by
    rintro _ i rfl
    exact decode_encode i
  exact ⟨hword .init (by decide), hword (.setEnable 1) (by decide), hword (.setDelay 250) (by decide),
    hword .measure (by decide), hword .extSensitivity (by decide)⟩

/-! ### A step by the word at the port -/

theorem fetchCommand_of_port {s : State} {w : CommandWord} {rest : List CommandWord} (h : s.port = w :: rest) :
    fetchCommand s = some (w, { s with port := rest, trace := [] }) := by
  rw [fetchCommand, h]

section
variable {s : State} {w : CommandWord} {rest : List CommandWord}

theorem step_of_command {i : Instr} (hport : s.port = w :: rest) (h : decode w = .command i) :
    step s = exec i { s with port := rest, trace := [] } := by
  simp only [step, fetchCommand_of_port hport, h]

theorem step_of_illegalOpcode {op : Byte} (hport : s.port = w :: rest) (h : decode w = .illegalOpcode op) :
    step s = rejectOpcode { s with port := rest, trace := [] } := by
  simp only [step, fetchCommand_of_port hport, h]

theorem step_of_illegalExt {a : Word} (hport : s.port = w :: rest) (h : decode w = .illegalExt a) :
    step s = rejectExt { s with port := rest, trace := [] } := by
  simp only [step, fetchCommand_of_port hport, h]

end

/-- Settles O7. -/
theorem stepRunsDecodedCommand : Obligations.StepRunsDecodedCommand := fun _ _ _ _ hport hdecode _ =>
  step_of_command hport hdecode

/-- Settles O8: an illegal opcode is answered past no guard, an unknown EXT number past the lifecycle guard. -/
theorem stepAnswersIllegalWords : Obligations.StepAnswersIllegalWords := by
  intro s w rest hport
  refine ⟨fun hop => ?opcode, fun hop harg hi => ?initialized, fun hop harg hi => ?uninitialized⟩
  case opcode => exact step_of_illegalOpcode hport (decode_illegalOpcode hop)
  case initialized =>
    rw [step_of_illegalExt hport (decode_illegalExt hop harg)]
    exact guarded_initialized hi
  case uninitialized =>
    rw [step_of_illegalExt hport (decode_illegalExt hop harg)]
    exact guarded_uninitialized hi

/-! ### A value already held -/

/-- The truth value of SET_ENABLE's operand is the one ENABLE holds (30_encoding.md R72). -/
theorem wantEnable_eq {arg : Word} {b : Bool} (h : b = true ↔ arg ≠ 0) : wantEnable arg = b := by
  rw [Bool.eq_iff_iff, h]
  exact bne_iff_ne

/-- Settles O38: the procedure ends at once where ENABLE holds the value asked for (45_host_commands.md R184). -/
theorem setEnableHeldValue : Obligations.SetEnableHeldValue := by
  intro arg s hi hheld
  have hend : pSetEnable arg s = .ok okEmpty s := if_pos (wantEnable_eq hheld)
  calc exec (.setEnable arg) s = guarded (pSetEnable arg) s := rfl
    _ = finish (pSetEnable arg s) := guarded_initialized hi
    _ = _ := by rw [hend]; rfl

end Sys2Proof.Machine
end

section
/-! Settles the statements of the encoding family on responses: the record's places and codes (30_encoding.md R62, R73), and
what every command delivers (60_exceptions.md R220, R232). -/

namespace Sys2Proof.Machine

/-! ### The places of the fields -/

section
variable (r : Response)

theorem responseBits_status : (responseBits r).extractLsb' 136 8 = r.status := by
  unfold responseBits
  rw [extractLsb_append_upper _ r.r3 104, extractLsb_append_upper _ r.r2 72, extractLsb_append_upper _ r.r1 40,
    extractLsb_append_upper _ r.r0 8, extractLsb_append_upper _ r.count 0]
  exact extractLsb_whole r.status

theorem responseBits_count : (responseBits r).extractLsb' 128 8 = r.count := by
  unfold responseBits
  rw [extractLsb_append_upper _ r.r3 96, extractLsb_append_upper _ r.r2 64, extractLsb_append_upper _ r.r1 32,
    extractLsb_append_upper _ r.r0 0]
  exact extractLsb_append_last _ r.count

theorem responseBits_r0 : (responseBits r).extractLsb' 96 32 = r.r0 := by
  unfold responseBits
  rw [extractLsb_append_upper _ r.r3 64, extractLsb_append_upper _ r.r2 32, extractLsb_append_upper _ r.r1 0]
  exact extractLsb_append_last _ r.r0

theorem responseBits_r1 : (responseBits r).extractLsb' 64 32 = r.r1 := by
  unfold responseBits
  rw [extractLsb_append_upper _ r.r3 32, extractLsb_append_upper _ r.r2 0]
  exact extractLsb_append_last _ r.r1

theorem responseBits_r2 : (responseBits r).extractLsb' 32 32 = r.r2 := by
  unfold responseBits
  rw [extractLsb_append_upper _ r.r3 0]
  exact extractLsb_append_last _ r.r2

theorem responseBits_r3 : (responseBits r).extractLsb' 0 32 = r.r3 :=
  extractLsb_append_last _ r.r3

end

/-- Settles O5: each field at its place in the record; the two fixed records and the codes hold by evaluation. -/
theorem responseEncoding : Obligations.ResponseEncoding := by
  refine ⟨fun r => ?places, rfl, fun _ => rfl, ?codes⟩
  case places =>
    exact ⟨responseBits_status r, responseBits_count r, responseBits_r0 r, responseBits_r1 r, responseBits_r2 r,
      responseBits_r3 r⟩
  case codes => decide

/-! ### What a procedure answers -/

/-- Every result the procedure ends with, from any state, has the property. -/
def Proc.Returns {α : Type} (Q : α → Prop) (p : Proc α) : Prop := ∀ s t a, p s = .ok a t → Q a

section
variable {α β : Type} {Q : α → Prop} {P : β → Prop}

theorem Proc.pure_returns {a : α} (h : Q a) : (Proc.pure a).Returns Q := by
  rintro s t _ ⟨⟩
  exact h

/-- An answer read off the state. -/
theorem Proc.answer_returns {g : State → α} (h : ∀ s, Q (g s)) : Proc.Returns Q fun s => .ok (g s) s := by
  rintro s t _ ⟨⟩
  exact h s

theorem raise_returns (Q : α → Prop) (e : ErrKind) : Proc.Returns Q (raise e) := by
  intro s t a h
  cases h

theorem Proc.ite_returns {c : Prop} [Decidable c] {p q : Proc α} (hp : p.Returns Q) (hq : q.Returns Q) :
    Proc.Returns Q (if c then p else q) := by
  split <;> assumption

/-- A choice made on the state. -/
theorem Proc.branch_returns {c : State → Prop} [∀ s, Decidable (c s)] {p q : State → Proc α} (hp : ∀ s, (p s).Returns Q)
    (hq : ∀ s, (q s).Returns Q) : Proc.Returns Q fun s => if c s then p s s else q s s := by
  intro s
  dsimp only
  split
  · exact hp s s
  · exact hq s s

/-- What a sequence answers is what its last part answers, given what the first part answers. -/
theorem Proc.bind_returns {p : Proc β} {q : β → Proc α} (hp : p.Returns P) (hq : ∀ b, P b → (q b).Returns Q) :
    (p.bind q).Returns Q := by
  intro s t a
  unfold Proc.bind
  cases h : p s with
  | ok b u => exact hq b (hp s u b h) u t a
  | err e u => exact nofun
  | fault x => exact nofun

theorem Proc.bind_returns_last {p : Proc β} {q : β → Proc α} (hq : ∀ b, (q b).Returns Q) : (p.bind q).Returns Q :=
  Proc.bind_returns (P := fun _ => True) (fun _ _ _ _ => trivial) fun b _ => hq b

theorem Proc.andThen_returns {p : Proc Unit} {q : Proc α} (hq : q.Returns Q) : (p.andThen q).Returns Q :=
  Proc.bind_returns_last fun _ => hq

theorem Proc.attempt_returns {p : Proc α} (h : p.Returns Q) : p.attempt.Returns fun r => ∀ a, r = .ok a → Q a := by
  intro s t r
  unfold Proc.attempt
  cases hp : p s with
  | ok a u =>
    rintro ⟨⟩ _ ⟨⟩
    exact h s _ _ hp
  | err e u =>
    rintro ⟨⟩ _ h
    cases h
  | fault x => exact nofun

/-- A cleanup does not change the answer (R239). -/
theorem Proc.withCleanup_returns {b : Proc α} {c : Proc Unit} (hb : b.Returns Q) : (b.withCleanup c).Returns Q :=
  Proc.bind_returns (Proc.attempt_returns hb) fun r hr => Proc.bind_returns_last fun _ => by
    cases r with
    | ok a => exact Proc.pure_returns (hr a rfl)
    | error e => exact raise_returns Q e

end

/-! ### What each command's procedure answers -/

/-- A success that carries no sample (R62). -/
def IsPlainSuccess (r : Response) : Prop := r.status = 0 ∧ r.count = 0

/-- A success with at most one sample (R62, 45_host_commands.md R197). -/
def IsSampleSuccess (r : Response) : Prop := r.status = 0 ∧ (r.count = 0 ∨ r.count = 1)

theorem okResponse_isPlainSuccess (r0 r1 r2 r3 : Word) : IsPlainSuccess (okResponse r0 r1 r2 r3) := ⟨rfl, rfl⟩

theorem sampleResponse_isSampleSuccess (q : Tri Word) : IsSampleSuccess (sampleResponse q) := ⟨rfl, .inr rfl⟩

theorem pure_okEmpty_returns : (Proc.pure okEmpty).Returns IsPlainSuccess :=
  Proc.pure_returns (okResponse_isPlainSuccess 0 0 0 0)

theorem pTerm_returns : pTerm.Returns IsPlainSuccess := fun s =>
  Proc.bind_returns_last (fun e => Proc.andThen_returns (by
    cases e with
    | ok => exact pure_okEmpty_returns
    | error => exact raise_returns _ _)) s

theorem pSetEnable_returns (arg : Word) : (pSetEnable arg).Returns IsPlainSuccess :=
  Proc.branch_returns (p := fun _ => Proc.pure okEmpty) (fun _ => pure_okEmpty_returns)
    fun _ => Proc.andThen_returns pure_okEmpty_returns

theorem reapplyIfEnabled_returns : reapplyIfEnabled.Returns IsPlainSuccess :=
  Proc.branch_returns (q := fun _ => Proc.pure okEmpty) (fun _ => Proc.andThen_returns pure_okEmpty_returns)
    fun _ => pure_okEmpty_returns

theorem pSetDelay_returns (arg : Word) : (pSetDelay arg).Returns IsPlainSuccess := by
  intro s
  unfold pSetDelay
  split
  · exact reapplyIfEnabled_returns _
  · exact raise_returns _ _ s

theorem pSetAveraging_returns (arg : Word) : (pSetAveraging arg).Returns IsPlainSuccess := by
  intro s
  unfold pSetAveraging
  split
  · exact reapplyIfEnabled_returns _
  · exact raise_returns _ _ s

theorem pSetPosition_returns (arg : Word) : (pSetPosition arg).Returns IsPlainSuccess := by
  intro s
  unfold pSetPosition
  split
  · exact pure_okEmpty_returns _
  · exact raise_returns _ _ s

theorem judgeSample_returns : judgeSample.Returns IsSampleSuccess :=
  Proc.branch_returns (p := fun _ => raise .busy) (fun _ => raise_returns _ _) fun _ =>
    Proc.bind_returns_last fun _ => Proc.andThen_returns <| Proc.answer_returns fun t => sampleResponse_isSampleSuccess t.q

theorem pMeasure_returns : pMeasure.Returns IsSampleSuccess := by
  intro s
  unfold pMeasure
  split
  · exact Proc.pure_returns (show IsSampleSuccess okEmpty from ⟨rfl, .inl rfl⟩) _
  · exact Proc.andThen_returns (Proc.andThen_returns judgeSample_returns) _

theorem directionResult_returns (d : Tri Int) : (directionResult d).Returns IsPlainSuccess :=
  Proc.ite_returns (raise_returns _ _) (Proc.pure_returns (okResponse_isPlainSuccess ..))

theorem selfTestBody_returns (was : Bool) : (selfTestBody was).Returns IsPlainSuccess :=
  Proc.andThen_returns <| Proc.andThen_returns fun s =>
    Proc.andThen_returns (Proc.andThen_returns fun t => directionResult_returns _ t) s

theorem sensitivityBody_returns (was : Bool) : (sensitivityBody was).Returns IsPlainSuccess :=
  Proc.andThen_returns <| Proc.andThen_returns fun s => Proc.andThen_returns (fun t =>
    Proc.andThen_returns (Proc.andThen_returns <| Proc.pure_returns (okResponse_isPlainSuccess ..)) t) s

theorem noiseBody_returns (was : Bool) : (noiseBody was).Returns IsPlainSuccess :=
  Proc.andThen_returns <| Proc.bind_returns_last fun _ => Proc.answer_returns fun _ => okResponse_isPlainSuccess ..

/-! ### The response of a command that ends -/

/-- What a response of command `i` may look like (R62, R232). -/
structure Response.WellFormedFor (i : Instr) (r : Response) : Prop where
  status_le : r.status.toNat ≤ 10
  error_empty : r.status ≠ 0 → r.count = 0 ∧ r.r0 = 0 ∧ r.r1 = 0 ∧ r.r2 = 0 ∧ r.r3 = 0
  count_le : r.count = 0 ∨ (r.count = 1 ∧ i = .measure)

theorem statusCode_le (e : ErrKind) : (statusCode e).toNat ≤ 10 := by
  cases e <;> decide

theorem errorResponse_wellFormed (i : Instr) (e : ErrKind) : (errorResponse e).WellFormedFor i :=
  ⟨statusCode_le e, fun _ => ⟨rfl, rfl, rfl, rfl, rfl⟩, .inl rfl⟩

theorem wellFormed_of_success {i : Instr} {r : Response} (hok : r.status = 0)
    (hcount : r.count = 0 ∨ (r.count = 1 ∧ i = .measure)) : r.WellFormedFor i :=
  ⟨by rw [hok]; decide, fun h => absurd hok h, hcount⟩

/-- A guarded command delivers an error or what its procedure answers. -/
theorem guarded_wellFormed {i : Instr} {p : Proc Response} {s t : State} (h : guarded p s = .next t)
    (hp : p.Returns (Response.WellFormedFor i)) : ∃ r, t.response = some r ∧ r.WellFormedFor i := by
  obtain ⟨_, rfl⟩ | ⟨_, ⟨a, u, hu, rfl⟩ | ⟨e, u, _, rfl⟩⟩ := guarded_next h
  · exact ⟨_, rfl, errorResponse_wellFormed i _⟩
  · exact ⟨a, rfl, hp s u a hu⟩
  · exact ⟨_, rfl, errorResponse_wellFormed i e⟩

theorem execInit_wellFormed {s t : State} (h : execInit s = .next t) :
    ∃ r, t.response = some r ∧ r.WellFormedFor .init := by
  obtain ⟨_, rfl⟩ | ⟨_, _, _, _, ⟨e, rfl⟩ | rfl⟩ := execInit_next h
  · exact ⟨_, rfl, errorResponse_wellFormed _ _⟩
  · exact ⟨_, rfl, errorResponse_wellFormed _ e⟩
  · exact ⟨okEmpty, rfl, wellFormed_of_success rfl (.inl rfl)⟩

theorem exec_wellFormed {i : Instr} {s t : State} (h : exec i s = .next t) :
    ∃ r, t.response = some r ∧ r.WellFormedFor i := by
  have hplain {p : Proc Response} (hg : guarded p s = .next t) (hp : p.Returns IsPlainSuccess) :
      ∃ r, t.response = some r ∧ r.WellFormedFor i :=
    guarded_wellFormed hg fun u v a ha =>
      have ⟨hok, hcount⟩ := hp u v a ha
      wellFormed_of_success hok (.inl hcount)
  cases i with
  | init => exact execInit_wellFormed h
  | term => exact hplain h pTerm_returns
  | setEnable arg => exact hplain h (pSetEnable_returns arg)
  | setDelay arg => exact hplain h (pSetDelay_returns arg)
  | setPosition arg => exact hplain h (pSetPosition_returns arg)
  | setAveraging arg => exact hplain h (pSetAveraging_returns arg)
  | measure =>
    refine guarded_wellFormed h fun u v a ha => ?_
    obtain ⟨hok, hcount⟩ := pMeasure_returns u v a ha
    exact wellFormed_of_success hok (hcount.imp_right fun hone => ⟨hone, rfl⟩)
  | extSelfTest => exact hplain h (Proc.withCleanup_returns (selfTestBody_returns _))
  | extSensitivity => exact hplain h (Proc.withCleanup_returns (sensitivityBody_returns _))
  | extNoiseTest => exact hplain h (Proc.withCleanup_returns (noiseBody_returns _))
  | getEnable | getDelay | getPosition | getAveraging | extGetRaw | extGetHwOffset =>
    exact hplain h (Proc.pure_returns ⟨rfl, rfl⟩)

/-- Settles O57, by what each command's procedure answers (`exec_wellFormed`). -/
theorem responsesAreWellFormed : Obligations.ResponsesAreWellFormed := by
  intro i s t h
  obtain ⟨r, hr, hstatus, herror, hcount⟩ := exec_wellFormed h
  exact ⟨r, hr, hstatus, herror, hcount⟩

end Sys2Proof.Machine
end

section
/-! Settles the statements of the encoding family on the status digits: the overflow mask (30_encoding.md R70,
42_coordinate_quantizer.md R121), the digit of a quantised value (30_encoding.md R71, R128 to R130), and the digits of the
samples MEASURE returns (R131, 43_measurement_fsm.md R143). -/

namespace Sys2Proof.Machine

/-! ### The overflow mask -/

theorem overflowMask_overflowBit (c : Tri (BitVec 14)) (i : Fin 3) :
    (overflowMask c).getLsbD (2 * i.val) = isOverflow (c.get i) := by
  match i with
  | 0 => exact getLsbD_append_ofBool _ _
  | 1 =>
    exact (getLsbD_append_upper _ _ 1).trans <| (getLsbD_append_upper _ _ 0).trans <| getLsbD_append_ofBool _ _
  | 2 =>
    exact (getLsbD_append_upper _ _ 3).trans <| (getLsbD_append_upper _ _ 2).trans <| (getLsbD_append_upper _ _ 1).trans <|
      (getLsbD_append_upper _ _ 0).trans <| getLsbD_append_ofBool _ _

theorem overflowMask_underflowBit (c : Tri (BitVec 14)) (i : Fin 3) :
    (overflowMask c).getLsbD (2 * i.val + 1) = isUnderflow (c.get i) := by
  match i with
  | 0 => exact (getLsbD_append_upper _ _ 0).trans <| getLsbD_append_ofBool _ _
  | 1 =>
    exact (getLsbD_append_upper _ _ 2).trans <| (getLsbD_append_upper _ _ 1).trans <| (getLsbD_append_upper _ _ 0).trans <|
      getLsbD_append_ofBool _ _
  | 2 =>
    exact (getLsbD_append_upper _ _ 4).trans <| (getLsbD_append_upper _ _ 3).trans <| (getLsbD_append_upper _ _ 2).trans <|
      (getLsbD_append_upper _ _ 1).trans <| (getLsbD_append_upper _ _ 0).trans <| BitVec.getLsbD_ofBool _ _

theorem isOverflow_iff {w : BitVec 14} : isOverflow w = true ↔ 16383 ≤ w.toNat := decide_eq_true_iff

theorem isUnderflow_iff {w : BitVec 14} : isUnderflow w = true ↔ w.toNat = 0 := beq_iff_eq

/-- 0x15 selects bits 0, 2 and 4 (R70). -/
theorem anyOverflow_iff (m : BitVec 6) : anyOverflow m = true ↔ ∃ i : Fin 3, m.getLsbD (2 * i.val) = true := by
  revert m; decide

/-- 0x2A selects bits 1, 3 and 5 (R70). -/
theorem anyUnderflow_iff (m : BitVec 6) : anyUnderflow m = true ↔ ∃ i : Fin 3, m.getLsbD (2 * i.val + 1) = true := by
  revert m; decide

/-- Settles O22: each bit by its place in the mask, the two tests by the bits they select. -/
theorem overflowMaskBits : Obligations.OverflowMaskBits := by
  refine ⟨fun c => ⟨fun i => ?bits, ?overflow, ?underflow⟩, fun _ => rfl⟩
  case bits =>
    rw [overflowMask_overflowBit, overflowMask_underflowBit, isOverflow_iff, isUnderflow_iff]
    exact ⟨rfl, rfl, by omega⟩
  case overflow => simp only [anyOverflow_iff, overflowMask_overflowBit, isOverflow_iff]
  case underflow => simp only [anyUnderflow_iff, overflowMask_underflowBit, isUnderflow_iff]

/-! ### The digit of a quantised value -/

/-- The digit the mask of the words `c` puts on slot `i` (R128). -/
theorem statusDigit_overflowMask (c : Tri (BitVec 14)) (i : Fin 3) : statusDigit (overflowMask c) i =
    if 16383 ≤ (c.get i).toNat then 1 else if (c.get i).toNat = 0 then 2 else 0 := by
  rw [statusDigit, overflowMask_overflowBit, overflowMask_underflowBit]
  simp only [isOverflow_iff, isUnderflow_iff]
  split_ifs <;> omega

theorem statusDigit_bounds (m : BitVec 6) (i : Fin 3) : 0 ≤ statusDigit m i ∧ statusDigit m i ≤ 3 := by
  unfold statusDigit
  split_ifs <;> decide

theorem statusDigit_zero (i : Fin 3) : statusDigit 0#6 i = 0 := by
  simp [statusDigit]

/-- Truncated to a multiple of ten, a 32-bit value leaves room for any digit up to 3 on either side: nothing wraps. -/
theorem toInt_word32_truncTen_add (v : Word) {d : Int} (h0 : 0 ≤ d) (h3 : d ≤ 3) :
    (word32 (truncTen v.toInt + d)).toInt = truncTen v.toInt + d := by
  obtain ⟨hmul, hle⟩ := truncTen_spec v.toInt
  have hlow := BitVec.le_toInt v
  have hhigh := BitVec.toInt_lt (x := v)
  apply word32_toInt <;> omega

/-- The Euclidean remainder takes the digit off a multiple of ten, negative or not (R130). -/
theorem digitOf_word32_truncTen_add (v : Word) {d : Int} (h0 : 0 ≤ d) (h3 : d ≤ 3) :
    digitOf (word32 (truncTen v.toInt + d)) = d := by
  obtain ⟨hmul, _⟩ := truncTen_spec v.toInt
  change (word32 (truncTen v.toInt + d)).toInt % 10 = d
  rw [toInt_word32_truncTen_add v h0 h3]
  omega

section
variable (m : BitVec 6) (i : Fin 3) (v : Word)

theorem quantAxis_toInt : (quantAxis m i v).toInt = truncTen v.toInt + statusDigit m i :=
  have ⟨h0, h3⟩ := statusDigit_bounds m i
  toInt_word32_truncTen_add v h0 h3

theorem digitOf_quantAxis : digitOf (quantAxis m i v) = statusDigit m i :=
  have ⟨h0, h3⟩ := statusDigit_bounds m i
  digitOf_word32_truncTen_add v h0 h3

end

theorem uQuant_q_get (s : State) (i : Fin 3) : (uQuant s).q.get i = quantAxis s.ovf i (s.v.get i) := by
  match i with
  | 0 | 1 | 2 => simp only [uQuant, Tri.get]

/-- Settles O26: the digit is the mask's, and the rest is the truncated value. The bound on the values is not needed: even at
the ends of the 32-bit range no digit wraps (`toInt_word32_truncTen_add`). -/
theorem quantisedDigitRecovered : Obligations.QuantisedDigitRecovered := by
  intro s hovf _
  refine ⟨fun i => ?_, rfl⟩
  rw [uQuant_q_get, digitOf_quantAxis, quantAxis_toInt, hovf, statusDigit_overflowMask]
  exact ⟨rfl, Int.add_sub_cancel _ _⟩

/-! ### The digits of the sample a MEASURE quantised -/

section
variable (s : State)

theorem timed_ovf : (timed s).ovf = s.ovf := by rw [timed_eq]
theorem timed_c : (timed s).c = s.c := by rw [timed_eq]
theorem timed_v : (timed s).v = s.v := by rw [timed_eq]
theorem timed_q : (timed s).q = s.q := by rw [timed_eq]

theorem measured_ovf : (measured s).ovf = overflowMask (measured s).c := by
  simp [measured, timed_ovf, timed_c, quantised, sampled]

theorem measured_q_get (i : Fin 3) :
    (measured s).q.get i = quantAxis (measured s).ovf i ((measured s).v.get i) := by
  simp only [measured, timed_ovf, timed_v, timed_q, advance_ovf, advance_v, advance_q, quantised, uQuant_ovf, uQuant_v]
  exact uQuant_q_get _ i

theorem digitOf_measured (i : Fin 3) : digitOf ((measured s).q.get i) =
    if 16383 ≤ ((measured s).c.get i).toNat then 1 else if ((measured s).c.get i).toNat = 0 then 2 else 0 := by
  rw [measured_q_get, digitOf_quantAxis, measured_ovf, statusDigit_overflowMask]

/-- Without overflow or underflow the drift status is the whole digit (R143). -/
theorem digitOf_addThree_measured (h : (measured s).ovf = 0#6) (i : Fin 3) :
    digitOf ((addThree (measured s).q).get i) = 3 := by
  have hget : (addThree (measured s).q).get i = word32 (((measured s).q.get i).toInt + 3) := by
    match i with
    | 0 | 1 | 2 => rfl
  rw [hget, measured_q_get, quantAxis_toInt, h, statusDigit_zero, Int.add_zero]
  exact digitOf_word32_truncTen_add _ (by decide) (by decide)

end

/-! ### What the state machine does to a sample -/

/-- U_FSM keeps the mask, and adds the drift status at most where the mask is clear (R143). -/
def DriftOnly (s u : State) : Prop := u.ovf = s.ovf ∧ (u.q = s.q ∨ (s.ovf = 0#6 ∧ u.q = addThree s.q))

theorem fsmNormal_driftOnly (now : Word) (s : State) : DriftOnly s (fsmNormal now s) := by
  unfold fsmNormal
  split
  · refine ⟨rfl, ?_⟩
    dsimp only
    split
    next h => exact .inr ⟨h, rfl⟩
    next => exact .inl rfl
  · exact ⟨rfl, .inl rfl⟩

theorem fsmRecordData_driftOnly (now : Word) (s : State) : DriftOnly s (fsmRecordData now s) := by
  unfold fsmRecordData
  split
  · exact ⟨rfl, .inl rfl⟩
  · exact fsmNormal_driftOnly now _

/-- The coil write touches no sample (R138). -/
theorem fsmInitCoil_keepsSample (now : Word) (ovf : BitVec 6) (q : Tri Word) :
    Proc.Stable (fun u => u.ovf = ovf ∧ u.q = q) (fsmInitCoil now) :=
  Proc.branch_stable
    (p := fun s => (primMemWrite s.cfg.dev.regConf s.cfg.dev.valConfRcoil).andThen (Proc.modify (coilDone now)))
    (q := fun _ => Proc.pure ())
    (fun _ _ => Proc.andThen_stable (primMemWrite_stable (fun _ _ _ h => h) _ _) (Proc.modify_stable fun _ h => h))
    fun _ _ => Proc.pure_stable _ ()

theorem uFsm_driftOnly {now : Word} {s u : State} (h : uFsm now s = .ok () u) : DriftOnly s u := by
  unfold uFsm at h
  split at h
  · have ⟨hovf, hq⟩ := (fsmInitCoil_keepsSample now s.ovf s.q).ok h ⟨rfl, rfl⟩
    exact ⟨hovf, .inl hq⟩
  split at h
  · cases h
    exact fsmRecordData_driftOnly now s
  split at h
  · cases h
    exact fsmNormal_driftOnly now s
  · cases h

/-! ### What a MEASURE returns -/

/-- A MEASURE answers a sample only past U_FSM, and then it is the one U_FSM leaves (45_host_commands.md R197). -/
theorem measure_of_sample {s t : State} {r : Response} (hbus : s.busOpen = s.enable) (h : exec .measure s = .next t)
    (hr : t.response = some r) (hcount : r.count = 1) :
    ∃ u, uFsm (measureTime s) (measured s) = .ok () u ∧ t = deliver (sampleResponse u.q) u := by
  have herror (e : ErrKind) (u : State) : t ≠ respondError e u := by
    rintro rfl
    obtain rfl := Option.some.inj hr
    cases hcount
  obtain ⟨_, ht⟩ | ⟨hi, ⟨a, u, hend, rfl⟩ | ⟨e, u, _, ht⟩⟩ := guarded_next h
  · exact absurd ht (herror _ _)
  · obtain rfl := Option.some.inj hr
    cases he : s.enable with
    | false =>
      have hempty : pMeasure s = .ok okEmpty (tickClock s) := by rw [pMeasure, he]; rfl
      cases hempty.symm.trans hend
      cases hcount
    | true =>
      have hb : s.busOpen = true := hbus.trans he
      cases hk : busOkAt s 0 with
      | false => cases (pMeasure_readFails he hb hk).symm.trans hend
      | true =>
        cases hbusy : (parseSample (sampleAt s 0)).busy with
        | true => cases (pMeasure_busy he hb hk hbusy).symm.trans hend
        | false =>
          rw [pMeasure_ready ⟨hi, he, hb, hk, hbusy⟩] at hend
          cases hfsm : uFsm (measureTime s) (measured s) with
          | ok _ v =>
            rw [Proc.andThen_ok hfsm] at hend
            cases hend
            exact ⟨u, rfl, rfl⟩
          | err e v => cases (Proc.andThen_err hfsm).symm.trans hend
          | fault x => simp [Proc.andThen, Proc.bind, hfsm] at hend
  · exact absurd ht (herror _ _)

/-- Settles O27: the digits are those of the quantised sample, 0 to 2, or a 3 on each where the mask is clear. -/
theorem measuredDigitsAreLegal : Obligations.MeasuredDigitsAreLegal := by
  intro s t r hinv h hr hcount
  obtain ⟨u, hfsm, rfl⟩ := measure_of_sample hinv.busMatchesEnable h hr hcount
  obtain rfl := Option.some.inj hr
  refine ⟨rfl, ?_⟩
  rw [deliver_q, deliver_ovf]
  obtain ⟨hovf, hq | ⟨hclear, hq⟩⟩ := uFsm_driftOnly hfsm
  · rw [hq]
    have hdigit (i : Fin 3) := digitOf_measured s i
    refine ⟨fun i => ?_, fun ⟨i, hi⟩ => ?_⟩
    · rw [hdigit]
      split_ifs <;> decide
    · rw [hdigit] at hi
      split_ifs at hi <;> omega
  · rw [hq]
    have hdigit := digitOf_addThree_measured s hclear
    exact ⟨fun i => .inr (.inr (.inr (hdigit i))), fun _ => ⟨hovf.trans hclear, hdigit⟩⟩

end Sys2Proof.Machine
end

section
/-! Settles the statement of the encoding family on the calibration block: the nine values as pieces of its bytes (30_encoding.md
R66, R67), and what U_CALDEC commits of an accepted block (40_calibration_decoder.md R92 to R98). -/

namespace Sys2Proof.Machine

/-! ### The pieces of the default layout -/

/-- A concatenation as a number. -/
theorem toNat_append_eq_add {n m : Nat} (x : BitVec n) (y : BitVec m) : (x ++ y).toNat = x.toNat * 2 ^ m + y.toNat := by
  rw [BitVec.toNat_append, ← Nat.shiftLeft_add_eq_or_of_lt y.isLt, Nat.shiftLeft_eq]

/-- S as a number, byte 3 first (R66). -/
theorem calString_toNat (B : CalBlock) : (calString B).toNat =
    (B 3).toNat * 2 ^ 64 + (B 4).toNat * 2 ^ 56 + (B 5).toNat * 2 ^ 48 + (B 6).toNat * 2 ^ 40 + (B 7).toNat * 2 ^ 32 +
      (B 8).toNat * 2 ^ 24 + (B 9).toNat * 2 ^ 16 + (B 10).toNat * 2 ^ 8 + (B 11).toNat := by
  unfold calString
  refine (toNat_append_eq_add _ _).trans ?_
  iterate 7 rw [toNat_append_eq_add]
  ring

/-- A field of adjacent bits as a piece of that number. -/
theorem calField_pieces {w : Nat} {B : CalBlock} {bits : Vector (Fin 72) w} (lo : Nat)
    (h : bits.toList.map (fun i => i.val) = List.range' lo w) : calField B bits =
      ((((B 3).toNat * 2 ^ 64 + (B 4).toNat * 2 ^ 56 + (B 5).toNat * 2 ^ 48 + (B 6).toNat * 2 ^ 40 + (B 7).toNat * 2 ^ 32 +
        (B 8).toNat * 2 ^ 24 + (B 9).toNat * 2 ^ 16 + (B 10).toNat * 2 ^ 8 + (B 11).toNat) / 2 ^ lo % 2 ^ w : Nat) : Int) := by
  rw [calField_adjacent h, calString_toNat]

/-- The nine fields of the default layout, each from the one or two bytes it lies in (R66). -/
theorem calField_default (B : CalBlock) :
    calField B defaultLayout.a2 = (((B 3).toNat % 32 * 4 + (B 4).toNat / 64 : Nat) : Int) ∧
    calField B defaultLayout.a3 = (((B 4).toNat % 64 * 2 + (B 5).toNat / 128 : Nat) : Int) ∧
    calField B defaultLayout.a4 = (((B 5).toNat % 128 * 2 + (B 6).toNat / 128 : Nat) : Int) ∧
    calField B defaultLayout.a5 = (((B 6).toNat % 128 * 4 + (B 7).toNat / 64 : Nat) : Int) ∧
    calField B defaultLayout.a6 = (((B 7).toNat % 64 * 2 + (B 8).toNat / 128 : Nat) : Int) ∧
    calField B defaultLayout.a7 = (((B 8).toNat % 128 * 2 + (B 9).toNat / 128 : Nat) : Int) ∧
    calField B defaultLayout.a8 = (((B 9).toNat % 128 : Nat) : Int) ∧
    calField B defaultLayout.a9 = (((B 10).toNat * 2 + (B 11).toNat / 128 : Nat) : Int) ∧
    calField B defaultLayout.k = (((B 11).toNat % 128 : Nat) : Int) := by
  refine ⟨(calField_pieces 62 rfl).trans ?_, (calField_pieces 55 rfl).trans ?_, (calField_pieces 47 rfl).trans ?_,
    (calField_pieces 38 rfl).trans ?_, (calField_pieces 31 rfl).trans ?_, (calField_pieces 23 rfl).trans ?_,
    (calField_pieces 16 rfl).trans ?_, (calField_pieces 7 rfl).trans ?_, (calField_pieces 0 rfl).trans ?_⟩ <;> omega

/-! ### Which blocks are accepted -/

/-- The low six bits of byte 16 (R93). -/
theorem and_lowSix_eq_zero_iff (b : Byte) : b &&& 0x3F#8 = 0#8 ↔ b.toNat % 64 = 0 := by
  rw [← BitVec.toNat_inj, BitVec.toNat_and]
  exact Eq.congr (Nat.and_two_pow_sub_one_eq_mod b.toNat 6) rfl

/-- Zero validation looks at bytes 0 to 15 and the low six bits of byte 16 (R93). -/
theorem calNonzero_iff (B : CalBlock) :
    calNonzero B = true ↔ (∃ i : Fin 17, i.val < 16 ∧ B i ≠ 0) ∨ (B 16).toNat % 64 ≠ 0 := by
  have hbytes : (∃ i : Fin 17, i.val < 16 ∧ B i ≠ 0) ↔ ∃ i : Fin 16, B i.castSucc ≠ 0 :=
    ⟨fun ⟨i, hi, h⟩ => ⟨⟨i.val, hi⟩, h⟩, fun ⟨i, h⟩ => ⟨i.castSucc, i.isLt, h⟩⟩
  rw [← not_iff_not, hbytes, ne_eq ((B 16).toNat % 64), ← and_lowSix_eq_zero_iff]
  simp [calNonzero, Fin.forall_fin_succ, BitVec.or_eq_zero_iff, and_assoc]

theorem verField_toNat (B : CalBlock) : (verField B).toNat = (B 16).toNat / 64 := by
  rw [verField, BitVec.toNat_ushiftRight, Nat.shiftRight_eq_div_pow]

theorem verField_eq_zero {B : CalBlock} (h : (B 16).toNat < 64) : verField B = 0#8 :=
  BitVec.eq_of_toNat_eq ((verField_toNat B).trans (Nat.div_eq_of_lt h))

theorem verField_eq_one {B : CalBlock} (h0 : 64 ≤ (B 16).toNat) (h1 : (B 16).toNat < 128) : verField B = 1#8 :=
  BitVec.eq_of_toNat_eq ((verField_toNat B).trans (Nat.div_eq_of_lt_le h0 h1))

/-! ### The nine values and the commit -/

/-- Settles O14: the values are the fields less their biases (`decodeModel_values`, `calField_default`); U_CALDEC accepts the
block by its version, and its commit is the record update with the bookkeeping of its writes (`uCaldec_ok`). -/
theorem decodedFieldsOfBlock : Obligations.DecodedFieldsOfBlock := by
  refine ⟨fun B => ?values, fun s B hb hnonzero => ?commit⟩
  case values =>
    obtain ⟨v2, v3, v4, v5, v6, v7, v8, v9, vk⟩ := decodeModel_values defaultLayout B
    obtain ⟨f2, f3, f4, f5, f6, f7, f8, f9, fk⟩ := calField_default B
    exact ⟨rfl, f2 ▸ v2, f3 ▸ v3, f4 ▸ v4, f5 ▸ v5, f6 ▸ v6, f7 ▸ v7, f8 ▸ v8, f9 ▸ v9, fk ▸ vk⟩
  case commit =>
    have hnz : calNonzero B = true := (calNonzero_iff B).mpr hnonzero
    refine ⟨fun hver hk => ⟨passThroughModel s.freeDraws, rfl, ?_⟩, fun hlow hhigh hk => ?_⟩
    · exact uCaldec_ok (.v0 hnz (verField_eq_zero hver)) hb hk
    · exact uCaldec_ok (.v1 hnz (verField_eq_one hlow hhigh)) hb hk

end Sys2Proof.Machine
end

section
/-! Settles the statement of the decoder family on the measurement state: INVALID is set exactly outside Normal, and every step
keeps it so (40_calibration_decoder.md R100, 43_measurement_fsm.md R138 to R145, 45_host_commands.md R182). -/

namespace Sys2Proof.Machine

/-! ### What the coherence speaks of -/

/-- The property speaks of MSTATE and INVALID only. -/
def OnFsm (I : State → Prop) : Prop := ∀ u v : State, v.mstate = u.mstate → v.invalid = u.invalid → I u → I v

theorem fsmCoherent_onFsm : OnFsm FsmCoherent := fun _ _ hm hi h => by
  unfold FsmCoherent at *
  rw [hm, hi]
  exact h

theorem FsmCoherent.deliver {s : State} (h : FsmCoherent s) (r : Response) : FsmCoherent (deliver r s) := h

/-- Normal with INVALID clear: what INIT and P_RESET_DECODE leave (R100, R182). -/
theorem fsmCoherent_of_clear {s : State} (hm : s.mstate = mNormal) (hi : s.invalid = false) : FsmCoherent s :=
  iff_of_false (by rw [hi]; decide) (not_not_intro hm)

/-- Outside Normal with INVALID set. -/
theorem fsmCoherent_of_flagged {s : State} (hm : s.mstate ≠ mNormal) (hi : s.invalid = true) : FsmCoherent s :=
  iff_of_true hi hm

/-! ### The writes of a reload and of a MEASURE -/

theorem fsmCoherent_loadKept : LoadKept FsmCoherent where
  adv u _ _ := fsmCoherent_onFsm u _ rfl rfl
  bo u _ := fsmCoherent_onFsm u _ rfl rfl
  en u _ := fsmCoherent_onFsm u _ rfl rfl
  c0 u _ := fsmCoherent_onFsm u _ rfl rfl
  c1 u _ := fsmCoherent_onFsm u _ rfl rfl
  rm _ _ := fsmCoherent_of_clear rfl rfl

/-- State Normal sets the flag and leaves for InitCoil on an anomaly, and clears it otherwise, whatever the flag was (R140). -/
theorem fsmNormal_coherent (now : Word) {s : State} (hm : s.mstate = mNormal) : FsmCoherent (fsmNormal now s) := by
  cases ha : anomaly s with
  | true =>
    rw [fsmNormal_of_anomaly ha]
    exact fsmCoherent_of_flagged (by decide : mInitCoil ≠ mNormal) rfl
  | false =>
    rw [fsmNormal_of_clear ha]
    exact fsmCoherent_of_clear hm rfl

/-- State RecordData waits with both as they were, or goes on as state Normal (R139, R145). -/
theorem fsmRecordData_coherent (now : Word) {s : State} (h : FsmCoherent s) : FsmCoherent (fsmRecordData now s) := by
  unfold fsmRecordData
  split
  · exact h
  · exact fsmNormal_coherent now rfl

/-- The coil is written in InitCoil, where the flag is set already (R138). -/
theorem coilDone_coherent (now : Word) {s : State} (h : FsmCoherent s) (hm : s.mstate = mInitCoil) :
    FsmCoherent (coilDone now s) :=
  fsmCoherent_of_flagged (by decide : mRecordData ≠ mNormal) (h.mpr (by rw [hm]; decide))

theorem fsmCoherent_measureKept : MeasureKept FsmCoherent where
  adv := fsmCoherent_loadKept.adv
  sm u D := by rw [sampled_eq]; exact fsmCoherent_onFsm u _ rfl rfl
  q u := by rw [quantised_eq]; exact fsmCoherent_onFsm u _ rfl rfl
  tm u := by rw [timed_eq]; exact fsmCoherent_onFsm u _ rfl rfl
  tk u := by rw [tickClock_eq]; exact fsmCoherent_onFsm u _ rfl rfl
  coil _ now h hm := coilDone_coherent now h hm
  nrm _ now _ hm := fsmNormal_coherent now hm
  rcd _ now h _ := fsmRecordData_coherent now h

/-! ### Every command, every step -/

theorem execInit_coherent {s t : State} (h : execInit s = .next t) (hs : FsmCoherent s) : FsmCoherent t := by
  obtain ⟨_, rfl⟩ | ⟨_, _, n, evs, ⟨e, rfl⟩ | rfl⟩ := execInit_next h
  · exact hs.deliver _
  · exact (fsmCoherent_loadKept.adv s n evs hs).deliver _
  · exact fsmCoherent_of_clear rfl rfl

theorem exec_coherent {i : Instr} {s t : State} (h : exec i s = .next t) (hs : FsmCoherent s) : FsmCoherent t := by
  have hguarded {p : Proc Response} (hp : guarded p s = .next t) (hk : Proc.Stable FsmCoherent p) : FsmCoherent t :=
    guarded_keeps hp hk (fun r _ hu => hu.deliver r) hs
  have hload := fsmCoherent_loadKept
  have hmeasure := fsmCoherent_measureKept
  have hsample := hmeasure.toSampleKept
  cases i with
  | init => exact execInit_coherent h hs
  | term => exact hguarded h (pTerm_stable hload.toBusKept fun _ hu => hu)
  | setEnable arg => exact hguarded h (pSetEnable_stable hload arg)
  | setDelay arg => exact hguarded h (pSetDelay_stable hload fun _ hu => hu)
  | setAveraging arg => exact hguarded h (pSetAveraging_stable hload fun _ hu => hu)
  | setPosition arg => exact hguarded h (pSetPosition_stable fun _ hu => hu)
  | measure => exact hguarded h hmeasure.measure
  | extSelfTest => exact hguarded h (selfTest_stable hload hsample (fun _ hu => hu) s.enable)
  | extSensitivity =>
    exact hguarded h (sensitivity_stable hload hsample
      (fun u d => by rw [uLinearAcc_eq]; exact fsmCoherent_onFsm u _ rfl rfl) s.enable)
  | extNoiseTest => exact hguarded h (noise_stable hload hmeasure s.enable)
  | getEnable | getDelay | getPosition | getAveraging | extGetRaw | extGetHwOffset =>
    exact hguarded h (Proc.pure_stable _ _)

/-- Settles O11: the word at the port runs a command, which keeps the coherence (`exec_coherent`), or is answered with an error
and no register written. -/
theorem stepKeepsFsmCoherence : Obligations.StepKeepsFsmCoherence := by
  intro s t hs hstep
  cases hp : s.port with
  | nil =>
    have hidle : step s = .next s := by simp only [step, fetchCommand, hp]
    obtain rfl := Host.Outcome.next.inj (hidle.symm.trans hstep)
    exact hs
  | cons w rest =>
    have htaken : FsmCoherent { s with port := rest, trace := [] } := hs
    cases hd : decode w with
    | command i => exact exec_coherent ((step_of_command hp hd).symm.trans hstep) htaken
    | illegalOpcode op =>
      obtain rfl := Host.Outcome.next.inj ((step_of_illegalOpcode hp hd).symm.trans hstep)
      exact htaken.deliver _
    | illegalExt arg =>
      exact guarded_keeps ((step_of_illegalExt hp hd).symm.trans hstep) (raise_stable _ _) (fun r _ hu => hu.deliver r)
        htaken

end Sys2Proof.Machine
end

section
/-! Settles the statements of the decoder family on U_CALDEC: the blocks it rejects, and the decodes that fail
(40_calibration_decoder.md R91 to R98). -/

namespace Sys2Proof.Machine

/-! ### Blocks that are rejected -/

/-- A version tag of 2 or 3 is no version (R92). -/
theorem verField_ne_of_le {B : CalBlock} (h : 128 ≤ (B 16).toNat) : verField B ≠ 0#8 ∧ verField B ≠ 1#8 := by
  have hver := verField_toNat B
  constructor <;> intro heq <;> rw [heq] at hver <;> simp at hver <;> omega

/-- Zero validation fails exactly where every byte it looks at is zero (R93). -/
theorem calNonzero_eq_false {B : CalBlock} (hbytes : ∀ i : Fin 17, i.val < 16 → B i = 0) (hlow : (B 16).toNat % 64 = 0) :
    calNonzero B = false := by
  rw [← Bool.not_eq_true, calNonzero_iff]
  rintro (⟨i, hi, hne⟩ | hne)
  · exact hne (hbytes i hi)
  · exact hne hlow

/-- Settles O16: either way U_CALDEC ends before its first write (`uCaldec_rejects`). -/
theorem invalidBlockChangesNothing : Obligations.InvalidBlockChangesNothing := by
  intro s B
  refine ⟨fun hinvalid => uCaldec_rejects ?_, calNonzero_iff B, verField_toNat B⟩
  exact hinvalid.imp (fun ⟨hbytes, hlow⟩ => calNonzero_eq_false hbytes hlow) verField_ne_of_le

/-! ### Decodes that fail -/

/-- The model, HWOFF and the model's counter of version-0 commits are as in `s`. -/
def Uncommitted (s t : State) : Prop := t.model = s.model ∧ t.hwoff = s.hwoff ∧ t.freeDraws = s.freeDraws

/-- The commit comes after the last write, so a failure of the whole is a failure of a write (R98). -/
theorem writesThenCommit_err {ws : List (Byte × Byte)} {f : State → State} {s t : State} {e : ErrKind}
    (h : (writeAll ws).andThen (Proc.modify f) s = .err e t) : Uncommitted s t := by
  have hkept : Proc.Stable (Uncommitted s) (writeAll ws) := writeAll_stable (fun _ _ _ h => h) ws
  cases hw : writeAll ws s with
  | ok a u => cases (Proc.andThen_ok hw).symm.trans h
  | err d u =>
    cases (Proc.andThen_err hw).symm.trans h
    exact hkept.err hw ⟨rfl, rfl, rfl⟩
  | fault x => simp [Proc.andThen, Proc.bind, hw] at h

theorem uCaldec_err {s t : State} {B : CalBlock} {e : ErrKind} (h : uCaldec B s = .err e t) : Uncommitted s t := by
  unfold uCaldec at h
  split at h
  · cases h; exact ⟨rfl, rfl, rfl⟩
  split at h
  · exact writesThenCommit_err h
  split at h
  · exact writesThenCommit_err h
  · cases h; exact ⟨rfl, rfl, rfl⟩

/-- An accepted block is written by its version's list, then committed (R91). -/
theorem Accepts.uCaldec_eq {s : State} {B : CalBlock} {ws : List (Byte × Byte)} {f : State → State}
    (h : Accepts s B ws f) : uCaldec B s = (writeAll ws).andThen (Proc.modify f) s := by
  cases h with
  | v0 hnz hver => simp [uCaldec, hnz, hver]
  | v1 hnz hver => simp [uCaldec, hnz, hver]

/-- Settles O17: whichever way U_CALDEC fails, no commit has run (`uCaldec_err`); the first write that fails ends the list
(`writeAll_err`). -/
theorem failedDecodeCommitsNothing : Obligations.FailedDecodeCommitsNothing := by
  refine ⟨fun s t B e h => uCaldec_err h, fun s B ws f k hk hb hacc hok hfail => ?_⟩
  rw [hacc.uCaldec_eq]
  exact Proc.andThen_err (writeAll_err hk hb hok hfail)

end Sys2Proof.Machine
end

section
/-! Settles the statements of the decoder family on P_ENABLE: a session enabled with a valid block, one whose block is rejected,
what an enable may end in, and a changed setting applied by a disable and an enable (40_calibration_decoder.md R91 to R100,
45_host_commands.md R184 to R187, R195). -/

namespace Sys2Proof.Machine

/-! ### The state with the bus opened or closed -/

/-- The state with BUSOPEN at this value. -/
def withBus (b : Bool) (s : State) : State := { s with busOpen := b }

section
variable (b : Bool) (s : State)

@[simp] theorem withBus_cfg : (withBus b s).cfg = s.cfg := rfl
@[simp] theorem withBus_withBus (c : Bool) : withBus b (withBus c s) = withBus b s := rfl
@[simp] theorem busOkAt_withBus (k : Nat) : busOkAt (withBus b s) k = busOkAt s k := rfl
@[simp] theorem blockAt_withBus (k : Nat) : blockAt (withBus b s) k = blockAt s k := rfl
@[simp] theorem sampleAt_withBus (k : Nat) : sampleAt (withBus b s) k = sampleAt s k := rfl

theorem withBus_advance (n : Nat) (e : List Event) : withBus b (advance s n e) = advance (withBus b s) n e := rfl

theorem resetMeasurement_withBus : resetMeasurement (withBus b s) = withBus b (resetMeasurement s) := rfl

theorem uConv_withBus : uConv (withBus b s) = withBus b (uConv s) := rfl

end

/-- A bus that is already so. -/
theorem withBus_self {b : Bool} {s : State} (h : s.busOpen = b) : withBus b s = s := by
  rw [withBus, ← h]

/-- A `BusOpen` that succeeds (20_memory.md R41). -/
theorem primBusOpen_opens {s : State} (hb : s.busOpen = false) (hk : busOkAt s 0 = true) :
    primBusOpen s = .ok () (advance (withBus true s) 1 [.opened true]) := primBusOpen_ok hb hk

/-- A disabled session with its bus closed (45_host_commands.md R186, 44_self_test_controller.md R157). -/
def released (s : State) : State := { s with enable := false, busOpen := false }

section
variable (s : State)

@[simp] theorem busOkAt_released (k : Nat) : busOkAt (released s) k = busOkAt s k := rfl
@[simp] theorem blockAt_released (k : Nat) : blockAt (released s) k = blockAt s k := rfl

theorem released_advance (n : Nat) (e : List Event) : released (advance s n e) = advance (released s) n e := rfl

theorem released_withBus (b : Bool) : released (withBus b s) = released s := rfl

end

/-- A session that is so already. -/
theorem released_self {s : State} (he : s.enable = false) (hb : s.busOpen = false) : released s = s := by
  cases s; simp_all [released]

/-- An enabled session with its bus open. -/
theorem enabled_self {s : State} (he : s.enable = true) (hb : s.busOpen = true) :
    { s with enable := true, busOpen := true } = s := by
  cases s; simp_all

/-! ### SET_ENABLE on a disabled session -/

theorem pSetEnable_of_disabled {arg : Word} {s : State} (harg : arg ≠ 0) (he : s.enable = false) :
    pSetEnable arg s = pEnable.andThen (Proc.pure okEmpty) s := by
  have hwant : wantEnable arg = true := wantEnable_eq (iff_of_true rfl harg)
  simp [pSetEnable, hwant, he]

theorem exec_setEnable_of_disabled {arg : Word} {s : State} (hi : s.initialized = true) (harg : arg ≠ 0)
    (he : s.enable = false) : exec (.setEnable arg) s = finish (pEnable.andThen (Proc.pure okEmpty) s) :=
  (guarded_initialized hi).trans (congrArg finish (pSetEnable_of_disabled harg he))

/-! ### A valid block -/

section
variable {s : State} {B : CalBlock} {ws : List (Byte × Byte)} {f : State → State}

/-- What an accepted block commits: the model, HWOFF, and the model's counter of version-0 commits (R94, R96). -/
theorem Accepts.commit_eq (h : Accepts s B ws f) (t : State) :
    f t = { t with model := (f t).model, hwoff := ⟨B 12, B 13, B 14⟩, freeDraws := (f t).freeDraws } := by
  cases h <;> rfl

/-- The commit of a version-0 block (R92, R94). -/
theorem Accepts.of_version_zero (h : Accepts s B ws f) (hver : (B 16).toNat < 64) :
    (f s).model.ver = 0#1 ∧ ws = v0Writes s.cfg.dev B := by
  cases h with
  | v0 => exact ⟨rfl, rfl⟩
  | v1 _ hone => cases (verField_eq_zero hver).symm.trans hone

/-- The commit of a version-1 block (R92, R95, R96). -/
theorem Accepts.of_version_one (h : Accepts s B ws f) (hver : 64 ≤ (B 16).toNat) :
    (f s).model = decodeModel s.cfg.calLayout B ∧ ws = v1Writes s.cfg.dev B := by
  cases h with
  | v0 _ hzero =>
    have hquot := verField_toNat B
    rw [hzero, BitVec.toNat_ofNat] at hquot
    omega
  | v1 => exact ⟨rfl, rfl⟩

end

/-- Settles O39: the interactions and registers of a successful P_ENABLE (`pEnable_ok`), and the commit by the block's
version. -/
theorem enableCompletes : Obligations.EnableCompletes := by
  intro arg s ws f hi he hb harg hacc hok
  refine ⟨?_, hacc.commit_eq s, hacc.of_version_zero, hacc.of_version_one⟩
  rw [exec_setEnable_of_disabled hi harg he, Proc.andThen_ok (pEnable_ok hacc hb hok), Proc.pure_apply, finish_ok]
  cases hacc <;> rfl

/-! ### A rejected block -/

/-- P_RESET_DECODE up to a block that U_CALDEC rejects: nothing is written after the read (R97, R100). -/
theorem pResetDecode_rejects {s : State} (hb : s.busOpen = true) (hk : AnswersOk s 2)
    (h : calNonzero (blockAt s 1) = false ∨ 128 ≤ (blockAt s 1 16).toNat) :
    pResetDecode s = .err .calibrationInvalid (advance s 2 [.wrote s.cfg.dev.regSrst s.cfg.dev.valSrst true,
      .slept s.cfg.tResetUs, .read s.cfg.dev.regCal 17 (some (List.ofFn (blockAt s 1)))]) := by
  unfold pResetDecode
  rw [Proc.andThen_ok (primMemWrite_ok hb (hk 0 (by decide))), Proc.andThen_ok (primSleep_apply _ _), advance_advance,
    Proc.bind_ok (primMemRead_ok (by exact hb) (by rw [busOkAt_advance]; exact hk 1 (by decide))), readData_eq_blockAt,
    advance_advance, blockAt_advance]
  exact Proc.andThen_err (uCaldec_rejects (h.imp_right verField_ne_of_le))

/-- P_ENABLE past an open whose reload or start fails: the bus is closed again, whatever the environment answers to that, and
the failure stands (R185, R226). -/
theorem pEnable_err {s t : State} {e : ErrKind} (hb : s.busOpen = false) (hk : busOkAt s 0 = true)
    (h : (pResetDecode.andThen pContStart) (advance (withBus true s) 1 [.opened true]) = .err e t)
    (hopen : t.busOpen = true) :
    pEnable s = .err e (advance (withBus false t) 1 [.closed (busOkAt t 0)]) := by
  unfold pEnable
  rw [Proc.andThen_ok (primBusOpen_opens hb hk)]
  refine (Proc.bind_ok (Proc.attempt_err h)).trans ?_
  exact Proc.andThen_ok (primBusClose_ignore hopen)

/-- Settles O40: the reload of the opened session ends at the block (`pResetDecode_rejects`), and P_ENABLE closes the bus. -/
theorem enableRejectsInvalidBlock : Obligations.EnableRejectsInvalidBlock := by
  intro arg s hi he hb harg hok hinvalid
  have hbit (k : Nat) : busOkAt (advance (withBus true s) 1 [.opened true]) k = busOkAt s (1 + k) := by simp
  have hreload := pResetDecode_rejects (s := advance (withBus true s) 1 [.opened true]) rfl
    (fun k hk => (hbit k).trans (hok (1 + k) (by omega))) (by simpa using hinvalid)
  have henable := pEnable_err hb (hok 0 (by decide)) (Proc.andThen_err hreload) rfl
  rw [exec_setEnable_of_disabled hi harg he, Proc.andThen_err henable, finish_err]
  simp only [withBus_advance, withBus_withBus, withBus_self hb, advance_advance, advance_cfg, withBus_cfg,
    busOkAt_advance, busOkAt_withBus, blockAt_advance, blockAt_withBus]
  rfl

/-! ### What an enable may end in -/

/-- The errors a reload raises (45_host_commands.md R235). -/
def IsReloadError (e : ErrKind) : Prop := e = .deviceCommunication ∨ e = .calibrationInvalid

/-- BUSOPEN and ENABLE at these values, under this record. -/
def Powered (c : Config) (b e : Bool) (s : State) : Prop := s.cfg = c ∧ s.busOpen = b ∧ s.enable = e

/-- The measurement state after a reset: Normal, no invalid data, the baseline of the record (R100 step 7). -/
def MeasurementReset (s : State) : Prop :=
  s.mstate = mNormal ∧ s.invalid = false ∧ s.onset = 0 ∧ s.base = s.cfg.baseReset

section
variable {c : Config} {e : Bool} {s : State}

theorem primMemWrite_powered (a v : Byte) (hs : Powered c true e s) :
    (primMemWrite a v s).Sat (fun _ => Powered c true e) (fun k t => IsReloadError k ∧ Powered c true e t) :=
  have ⟨_, hb, _⟩ := hs
  primMemWrite_sat hb (fun _ => hs) fun _ => ⟨.inl rfl, hs⟩

theorem writeAll_powered (ws : List (Byte × Byte)) (hs : Powered c true e s) :
    (writeAll ws s).Sat (fun _ => Powered c true e) (fun k t => IsReloadError k ∧ Powered c true e t) :=
  have ⟨_, hb, _⟩ := hs
  writeAll_sat hb (fun _ _ => hs) fun _ _ => ⟨.inl rfl, hs⟩

theorem uCaldec_powered (B : CalBlock) (hs : Powered c true e s) :
    (uCaldec B s).Sat (fun _ => Powered c true e) (fun k t => IsReloadError k ∧ Powered c true e t) := by
  unfold uCaldec
  split
  · exact ⟨.inr rfl, hs⟩
  split
  · exact Proc.andThen_sat (writeAll_powered _ hs) fun _ ht => ht
  split
  · exact Proc.andThen_sat (writeAll_powered _ hs) fun _ ht => ht
  · exact ⟨.inr rfl, hs⟩

theorem pResetDecode_powered (hs : Powered c true e s) :
    (pResetDecode s).Sat (fun _ t => Powered c true e t ∧ MeasurementReset t)
      (fun k t => IsReloadError k ∧ Powered c true e t) := by
  unfold pResetDecode
  refine Proc.andThen_sat (primMemWrite_powered _ _ hs) fun t ht => ?_
  refine Proc.andThen_sat (Q := Powered c true e) ht fun t ht => ?_
  have ⟨_, hb, _⟩ := ht
  refine Proc.bind_sat (Q := fun _ => Powered c true e)
    (primMemRead_sat hb (fun _ => ht) fun _ => ⟨.inl rfl, ht⟩) fun B t ht => ?_
  refine Proc.andThen_sat (uCaldec_powered B ht) fun t ht => ?_
  refine Proc.andThen_sat (primMemWrite_powered _ _ ht) fun t ht => ?_
  refine Proc.andThen_sat (primMemWrite_powered _ _ ht) fun t ht => ?_
  exact ⟨ht, rfl, rfl, rfl, rfl⟩

/-- The start of continuous mode keeps the fresh measurement state. -/
theorem pContStart_powered (hs : Powered c true e s) (hreset : MeasurementReset s) :
    (pContStart s).Sat (fun _ t => Powered c true e t ∧ MeasurementReset t)
      (fun k t => IsReloadError k ∧ Powered c true e t) := by
  have ⟨_, hb, _⟩ := hs
  refine Proc.andThen_sat (Q := fun t => Powered c true e t ∧ MeasurementReset t) ?_ fun _ ht => ht
  exact primMemWrite_sat hb (fun _ => ⟨hs, hreset⟩) fun _ => ⟨.inl rfl, hs⟩

/-- P_ENABLE: enabled with the measurement state reset, or disabled with the bus closed and an error of the reload (R185). -/
theorem pEnable_powered (hs : Powered c false false s) :
    (pEnable s).Sat (fun _ t => Powered c true true t ∧ MeasurementReset t)
      (fun k t => IsReloadError k ∧ Powered c false false t) := by
  have ⟨hc, hb, he⟩ := hs
  unfold pEnable
  refine Proc.andThen_sat (Q := Powered c true false) (primBusOpen_sat hb ⟨hc, rfl, he⟩ ⟨.inl rfl, hs⟩) fun t ht => ?_
  refine Proc.bind_sat (Q := fun r t => Powered c true false t ∧
      match r with | .ok _ => MeasurementReset t | .error k => IsReloadError k) (Proc.attempt_sat ?_) fun r t ht => ?_
  · have hstarted := Proc.andThen_sat (pResetDecode_powered ht) fun u ⟨hu, hreset⟩ => pContStart_powered hu hreset
    exact hstarted.mono (fun _ _ h => h) fun _ _ h => h.symm
  · obtain ⟨⟨hc, hb, he⟩, hr⟩ := ht
    cases r with
    | ok _ => exact ⟨⟨hc, hb, rfl⟩, hr⟩
    | error k =>
      have hclosed : (primBusClose.ignore t).Sat (fun _ => Powered c false false)
          (fun k t => IsReloadError k ∧ Powered c false false t) :=
        Proc.ignore_sat (primBusClose_sat hb (fun _ => ⟨hc, rfl, he⟩) fun _ => ⟨hc, rfl, he⟩)
      exact Proc.andThen_sat hclosed fun u hu => show IsReloadError k ∧ Powered c false false u from ⟨hr, hu⟩

end

/-- Settles O41: the two ends of P_ENABLE (`pEnable_powered`), told apart by the status delivered. -/
theorem enableOutcome : Obligations.EnableOutcome := by
  intro arg s t r hinv hi he harg hexec hr
  rw [exec_setEnable_of_disabled hi harg he] at hexec
  have hend := pEnable_powered (s := s) ⟨rfl, hinv.busMatchesEnable.trans he, he⟩
  cases hp : pEnable s with
  | ok a u =>
    rw [hp] at hend
    rw [Proc.andThen_ok hp] at hexec
    obtain rfl := Host.Outcome.next.inj hexec
    obtain rfl := Option.some.inj hr
    obtain ⟨⟨hc, hb, he⟩, hm, hinvalid, honset, hbase⟩ := hend
    exact ⟨fun _ => ⟨he, hb, hm, hinvalid, honset, hbase.trans (congrArg _ hc)⟩, fun hne => absurd rfl hne⟩
  | err k u =>
    rw [hp] at hend
    rw [Proc.andThen_err hp] at hexec
    obtain rfl := Host.Outcome.next.inj hexec
    obtain rfl := Option.some.inj hr
    obtain ⟨hk, _, hb, he⟩ := hend
    obtain rfl | rfl := hk
    · exact ⟨fun h0 => absurd h0 (by decide), fun _ => ⟨he, hb, .inl rfl⟩⟩
    · exact ⟨fun h0 => absurd h0 (by decide), fun _ => ⟨he, hb, .inr rfl⟩⟩
  | fault x => rw [hp] at hend; exact hend.elim

/-! ### A setting changed on an enabled session -/

/-- P_REAPPLY when every transaction succeeds: an enabled session with a fresh model, by a disable and an enable (R195). -/
theorem pReapply_ok {s : State} {ws : List (Byte × Byte)} {f : State → State} (hacc : Accepts s (blockAt s 4) ws f)
    (hb : s.busOpen = true) (hok : AnswersOk s (ws.length + 8)) :
    pReapply s = .ok () (advance (enabledWith f s) (ws.length + 8)
      (disableEvents s ++ enableEvents s (blockAt s 4) ws)) := by
  have hdisable : pDisable s = .ok () (advance (released s) 2 (disableEvents s)) := pDisable_ok hb (hok.le (by omega))
  have hbit (k : Nat) : busOkAt (advance (released s) 2 (disableEvents s)) k = busOkAt s (2 + k) := by simp
  have henable : pEnable (advance (released s) 2 (disableEvents s)) = .ok () (advance (enabledWith f _) (ws.length + 6) _) :=
    pEnable_ok (by rw [blockAt_advance, blockAt_released]; exact hacc.congr rfl) rfl fun k hk =>
      (hbit k).trans (hok (2 + k) (by omega))
  have hstate : enabledWith f (advance (released s) 2 (disableEvents s)) =
      advance (enabledWith f s) 2 (disableEvents s) := by cases hacc <;> rfl
  have hcount : 2 + (ws.length + 6) = ws.length + 8 := by omega
  rw [pReapply, Proc.andThen_ok hdisable, henable, hstate, advance_advance, hcount, blockAt_advance, blockAt_released]
  rfl

/-- A setting stored on an enabled session, then applied: what both setting commands answer (R195). -/
theorem reapplyIfEnabled_ok {s : State} {ws : List (Byte × Byte)} {f : State → State} (hacc : Accepts s (blockAt s 4) ws f)
    (he : s.enable = true) (hb : s.busOpen = true) (hok : AnswersOk s (ws.length + 8)) :
    reapplyIfEnabled s = .ok okEmpty (advance (resetMeasurement (f s)) (ws.length + 8)
      (disableEvents s ++ enableEvents s (blockAt s 4) ws)) := by
  have hstate : enabledWith f s = resetMeasurement (f s) :=
    enabled_self (hacc.enable_commit.trans he) (hacc.commit_busOpen.trans hb)
  rw [reapplyIfEnabled, if_pos he, Proc.andThen_ok (pReapply_ok hacc hb hok), hstate]
  rfl

theorem delayLegal_of_lt {arg : Word} (h : arg.toNat < 2 ^ 31) : delayLegal arg = true := by
  have hmsb : arg.msb = false := BitVec.msb_eq_false_iff_two_mul_lt.mpr (by omega)
  simpa [delayLegal, BitVec.msb_eq_getLsbD_last] using hmsb

theorem averagingLegal_of_le {arg : Word} (h : arg.toNat ≤ 3) : averagingLegal arg = true :=
  decide_eq_true (BitVec.le_def.mpr h)

/-- Settles O46: both commands store the value and apply it (`reapplyIfEnabled_ok`), so the enable's interactions are those of
the new value. -/
theorem settingReappliesOnEnabledSession : Obligations.SettingReappliesOnEnabledSession := by
  intro arg s ws f hi he hb hacc hok
  refine ⟨fun hlegal => ?_, fun hlegal => ?_⟩
  · have hend := reapplyIfEnabled_ok (s := { s with delay := arg }) (hacc.congr rfl) he hb hok
    have hproc : pSetDelay arg s = reapplyIfEnabled { s with delay := arg } := if_pos (delayLegal_of_lt hlegal)
    have hexec : exec (.setDelay arg) s = finish (pSetDelay arg s) := guarded_initialized hi
    rw [hexec, hproc, hend]
    cases hacc <;> rfl
  · have hend := reapplyIfEnabled_ok (s := { s with avg := BitVec.ofNat 2 arg.toNat }) (hacc.congr rfl) he hb hok
    have hproc : pSetAveraging arg s = reapplyIfEnabled { s with avg := BitVec.ofNat 2 arg.toNat } := by
      rw [pSetAveraging, if_pos (averagingLegal_of_le hlegal), BitVec.ofNat_toNat]
    have hexec : exec (.setAveraging arg) s = finish (pSetAveraging arg s) := guarded_initialized hi
    rw [hexec, hproc, hend]
    cases hacc <;> rfl

end Sys2Proof.Machine
end

section
/-! Settles the statements of the decoder family on the diagnostics that reload the model: EXT_SELF_TEST on either kind of
session, EXT_SENSITIVITY on a disabled one (40_calibration_decoder.md R100, 44_self_test_controller.md R156 to R164). -/

namespace Sys2Proof.Machine

/-! ### Opening the bus, reloading and sampling do not meet -/

theorem sampled_withBus (D : Fin 8 → Byte) (b : Bool) (s : State) : sampled D (withBus b s) = withBus b (sampled D s) :=
  sampled_setBusOpen D s b

theorem uLinearAcc_withBus (d : Tri Int) (b : Bool) (s : State) :
    uLinearAcc d (withBus b s) = withBus b (uLinearAcc d s) := by
  unfold uLinearAcc
  rw [apply_ite (withBus b)]
  rfl

theorem sampled_enable (D : Fin 8 → Byte) (s : State) : (sampled D s).enable = s.enable := by
  rw [sampled_eq]

/-- The linear part reads the model and the record (41_correction_mac.md R115). -/
theorem linearPart_congr {s t : State} (hm : s.model = t.model) (hc : s.cfg = t.cfg) (d : Tri Int) :
    linearPart s d = linearPart t d := by
  unfold linearPart
  rw [hm, hc]

theorem singleShotEvents_congr {s t : State} (hc : s.cfg = t.cfg) (ha : s.avg = t.avg) (ldtc fors : Bool)
    (D : Fin 8 → Byte) : singleShotEvents s ldtc fors D = singleShotEvents t ldtc fors D := by
  unfold singleShotEvents
  rw [hc, ha]

section
variable {s t : State} {B : CalBlock} {ws : List (Byte × Byte)} {f : State → State}

theorem Accepts.commit_withBus (h : Accepts s B ws f) (b : Bool) : f (withBus b t) = withBus b (f t) :=
  h.commit_setBusOpen b

/-- A reload of the opened session leaves the registers a reload leaves, with the bus open. -/
theorem Accepts.reload_opened (h : Accepts s B ws f) (n : Nat) (e : List Event) :
    resetMeasurement (f (advance (withBus true s) n e)) = advance (withBus true (resetMeasurement (f s))) n e := by
  rw [h.commit_advance, h.commit_withBus, resetMeasurement_advance, resetMeasurement_withBus]

theorem Accepts.busOkAt_reload (h : Accepts s B ws f) (k : Nat) : busOkAt (resetMeasurement (f s)) k = busOkAt s k :=
  h.busOkAt_commit k

theorem Accepts.sampleAt_reload (h : Accepts s B ws f) (k : Nat) : sampleAt (resetMeasurement (f s)) k = sampleAt s k :=
  h.sampleAt_commit k

end

/-! ### A diagnostic past its body -/

theorem exec_extSelfTest {s : State} {was : Bool} (hi : s.initialized = true) (he : s.enable = was) :
    exec .extSelfTest s = finish ((selfTestBody was).withCleanup (pRestore was) s) := by
  subst he
  exact guarded_initialized hi

theorem exec_extSensitivity {s : State} {was : Bool} (hi : s.initialized = true) (he : s.enable = was) :
    exec .extSensitivity s = finish ((sensitivityBody was).withCleanup (pRestore was) s) := by
  subst he
  exact guarded_initialized hi

section
variable {p : Proc Response} {s v : State} {n : Nat} {e : List Event}

/-- P_RESTORE on a session that was disabled puts it back with its bus closed, whatever the environment answers (R157). -/
theorem pRestore_opened (he : v.enable = false) (hb : v.busOpen = false) :
    (pRestore false).ignore (advance (withBus true v) n e) =
      .ok () (advance v (n + 2) (e ++ releaseEvents v (busOkAt v n) (busOkAt v (n + 1)))) := by
  have hrestore : pRestore false (advance (withBus true v) n e) = .ok () (advance (released _) 2 _) := pRestore_disabled rfl
  rw [Proc.ignore_ok hrestore, released_advance, released_withBus, released_self he hb, advance_advance]
  simp only [busOkAt_advance, busOkAt_withBus]
  rfl

/-- A diagnostic of a disabled session whose body ends with a result. -/
theorem withRestore_ok {r : Response} (he : v.enable = false) (hb : v.busOpen = false)
    (hp : p s = .ok r (advance (withBus true v) n e)) : finish (p.withCleanup (pRestore false) s) =
      .next { advance v (n + 2) (e ++ releaseEvents v (busOkAt v n) (busOkAt v (n + 1))) with response := some r } := by
  rw [Proc.withCleanup_ok hp (pRestore_opened he hb)]
  rfl

/-- One whose body raises. -/
theorem withRestore_err {k : ErrKind} (he : v.enable = false) (hb : v.busOpen = false)
    (hp : p s = .err k (advance (withBus true v) n e)) : finish (p.withCleanup (pRestore false) s) =
      .next { advance v (n + 2) (e ++ releaseEvents v (busOkAt v n) (busOkAt v (n + 1))) with
        response := some (errorResponse k) } := by
  rw [Proc.withCleanup_err hp (pRestore_opened he hb)]
  rfl

end

/-! ### EXT_SELF_TEST -/

/-- The answer of EXT_SELF_TEST: the direction of the physical values (R160). -/
def directionResponse (p : Tri Word) : Response :=
  okResponse (word32 (direction p).c0) (word32 (direction p).c1) (word32 (direction p).c2) 0

/-- A value of 1000 or more on some axis makes a direction (R160 step 6). -/
theorem direction_ne_zero {p : Tri Word} (h : ∃ i : Fin 3, 1000 ≤ (p.get i).toInt.natAbs) : direction p ≠ ⟨0, 0, 0⟩ := by
  rw [ne_eq, direction_zero_iff]
  obtain ⟨i, hi⟩ := h
  exact fun hall => absurd (hall i) (Nat.not_lt.mpr hi)

/-- Steps 2 to 7 of EXT_SELF_TEST with the bus open: reload, one plain shot, the judgement (R160). -/
theorem reloadAndJudge_ok {s u : State} {ws : List (Byte × Byte)} {f : State → State}
    (hacc : Accepts s (blockAt s 1) ws f) (hb : s.busOpen = true) (hok : AnswersOk s (ws.length + 6))
    (hready : (parseSample (sampleAt s (ws.length + 5))).busy = false)
    (hu : u = uConv (sampled (sampleAt s (ws.length + 5)) (resetMeasurement (f s)))) (hovf : u.ovf = 0#6)
    (hdir : ∃ i : Fin 3, 1000 ≤ (u.p.get i).toInt.natAbs) :
    ((pResetDecode.andThen (pSingleShot false false)).andThen judgeDirection) s =
      .ok (directionResponse u.p) (advance u (ws.length + 6)
        (resetDecodeEvents s (blockAt s 1) ws ++ singleShotEvents s false false (sampleAt s (ws.length + 5)))) := by
  subst hu
  exact (Proc.andThen_ok (reloadAndShot_ok hacc hb hok hready)).trans
    (judgeDirection_ok (s := advance _ _ _) hovf (direction_ne_zero hdir))

/-- On an enabled session the body starts with the bus open already (R160 step 1). -/
theorem selfTestBody_enabled (s : State) : selfTestBody true s =
    ((pResetDecode.andThen (pSingleShot false false)).andThen judgeDirection) s := by
  rw [selfTestBody, if_pos rfl]
  exact Proc.andThen_ok (Proc.pure_apply () s)

/-- Settles O49: the body ends with the direction (`reloadAndJudge_ok`), and the restart is one transaction whose failure is
dropped (`pRestore_enabled`). -/
theorem selfTestCompletesEnabled : Obligations.SelfTestCompletesEnabled := by
  rintro s u ws f D hi he hb hacc hok rfl hready hu hovf hdir
  have hbody := (selfTestBody_enabled s).trans (reloadAndJudge_ok hacc hb hok hready hu hovf hdir)
  have huopen : u.busOpen = true := by rw [hu, uConv_busOpen, sampled_busOpen]; exact hacc.commit_busOpen.trans hb
  have hbit (k : Nat) : busOkAt u k = busOkAt s k := by
    rw [hu]; exact (busOkAt_sampled _ _ _).trans (hacc.busOkAt_reload k)
  have hcfg : u.cfg = s.cfg := by rw [hu, uConv_cfg, sampled_cfg]; exact hacc.cfg_commit
  have havg : u.avg = s.avg := by rw [hu, uConv_avg, sampled_avg]; exact hacc.avg_commit
  have hrestart (ok : Bool) (n : Nat) (e : List Event) : restartEvents (advance u n e) ok = restartEvents s ok := by
    simp only [restartEvents, advance_cfg, advance_avg, hcfg, havg]
  rw [exec_extSelfTest hi he, Proc.withCleanup_ok hbody (Proc.ignore_ok (pRestore_enabled huopen)), advance_advance,
    busOkAt_advance, hbit, hrestart]
  rfl

/-- Settles O50: the same body on the opened session, whose registers are those of the closed one with the bus open, and
P_RESTORE releases it (`withRestore_ok`). -/
theorem selfTestCompletesDisabled : Obligations.SelfTestCompletesDisabled := by
  rintro s u ws f D hi he hb hacc hok rfl hready hu hovf hdir
  have hcount : 1 + (ws.length + 5) = ws.length + 6 := by omega
  have hsample : sampleAt (advance (withBus true s) 1 [.opened true]) (ws.length + 5) = sampleAt s (ws.length + 6) := by
    rw [sampleAt_advance, sampleAt_withBus, hcount]
  have hblock : blockAt (advance (withBus true s) 1 [.opened true]) 1 = blockAt s 2 := by simp
  have huopened : advance (withBus true u) 1 [.opened true] = uConv (sampled (sampleAt s (ws.length + 6))
      (resetMeasurement (f (advance (withBus true s) 1 [.opened true])))) := by
    rw [hacc.reload_opened, sampled_advance, sampled_withBus, uConv_advance, uConv_withBus, hu]
  have hjudge := reloadAndJudge_ok (s := advance (withBus true s) 1 [.opened true]) (f := f)
    (u := advance (withBus true u) 1 [.opened true])
    (by rw [hblock]; exact hacc.congr rfl) rfl
    (fun k hk => (busOkAt_advance _ _ _ _).trans (hok (1 + k) (by omega))) (by rw [hsample]; exact hready)
    (by rw [hsample]; exact huopened) hovf hdir
  rw [hblock, hsample, advance_advance] at hjudge
  have hbody : selfTestBody false s = _ := (Proc.andThen_ok (primBusOpen_opens hb (hok 0 (by omega)))).trans hjudge
  have huenable : u.enable = false := by rw [hu, uConv_enable, sampled_enable]; exact hacc.enable_commit.trans he
  have huclosed : u.busOpen = false := by rw [hu, uConv_busOpen, sampled_busOpen]; exact hacc.commit_busOpen.trans hb
  have hbit (k : Nat) : busOkAt u k = busOkAt s k := by
    rw [hu]; exact (busOkAt_sampled _ _ _).trans (hacc.busOkAt_reload k)
  have hcfg : u.cfg = s.cfg := by rw [hu, uConv_cfg, sampled_cfg]; exact hacc.cfg_commit
  have htotal : 1 + (ws.length + 6) = ws.length + 7 := by omega
  rw [exec_extSelfTest hi he, withRestore_ok huenable huclosed hbody, hbit, hbit, htotal]
  simp only [releaseEvents, hcfg]
  rfl

/-! ### EXT_SENSITIVITY -/

theorem anyOverflow_or (a b : BitVec 6) : anyOverflow (a ||| b) = (anyOverflow a || anyOverflow b) := by
  rw [Bool.eq_iff_iff, Bool.or_eq_true, anyOverflow_iff, anyOverflow_iff, anyOverflow_iff, ← exists_or]
  simp only [BitVec.getLsbD_or, Bool.or_eq_true]

theorem anyUnderflow_or (a b : BitVec 6) : anyUnderflow (a ||| b) = (anyUnderflow a || anyUnderflow b) := by
  rw [Bool.eq_iff_iff, Bool.or_eq_true, anyUnderflow_iff, anyUnderflow_iff, anyUnderflow_iff, ← exists_or]
  simp only [BitVec.getLsbD_or, Bool.or_eq_true]

/-- The answer of EXT_SENSITIVITY: the factors of the linear part of the difference (R163). -/
def sensResponse (vcore : Nat) (h : Tri Int) : Response :=
  okResponse (word32 (sensFactors vcore h).1) (word32 (sensFactors vcore h).2) 0 0

section
variable {s : State} {p : Tri (BitVec 16)} {fp : BitVec 6} {d : Tri Int}

/-- Steps 4 to 6 of EXT_SENSITIVITY: the linear part, then the flags of both shots, then the answer (R162, R164). -/
theorem sensResult_eq (hd : shotDifference p s.lastRaw = d) : sensResult p fp s =
    ((checkMask (fp ||| s.ovf)).andThen (Proc.pure (sensResponse s.cfg.sensVcore (linearPart s d)))) (uLinearAcc d s) := by
  subst hd; rfl

theorem sensResult_ok (hd : shotDifference p s.lastRaw = d) (hp : fp = 0#6) (hs : s.ovf = 0#6) :
    sensResult p fp s = .ok (sensResponse s.cfg.sensVcore (linearPart s d)) (uLinearAcc d s) := by
  rw [sensResult_eq hd, hp, hs]; rfl

theorem sensResult_overflow (hd : shotDifference p s.lastRaw = d) (h : (anyOverflow fp || anyOverflow s.ovf) = true) :
    sensResult p fp s = .err .overflowDetected (uLinearAcc d s) :=
  (sensResult_eq hd).trans (Proc.andThen_err (checkMask_overflow ((anyOverflow_or _ _).trans h) _))

theorem sensResult_underflow (hd : shotDifference p s.lastRaw = d) (ho : (anyOverflow fp || anyOverflow s.ovf) = false)
    (hu : (anyUnderflow fp || anyUnderflow s.ovf) = true) :
    sensResult p fp s = .err .underflowDetected (uLinearAcc d s) :=
  (sensResult_eq hd).trans (Proc.andThen_err
    (checkMask_underflow ((anyOverflow_or _ _).trans ho) ((anyUnderflow_or _ _).trans hu) _))

end

/-- Open and reload on a disabled session (R162 step 1). -/
theorem openAndReload_ok {s : State} {ws : List (Byte × Byte)} {f : State → State} (hacc : Accepts s (blockAt s 2) ws f)
    (hb : s.busOpen = false) (hok : AnswersOk s (ws.length + 5)) :
    (primBusOpen.andThen pResetDecode) s = .ok () (advance (withBus true (resetMeasurement (f s))) (ws.length + 5)
      ([.opened true] ++ resetDecodeEvents s (blockAt s 2) ws)) := by
  have hblock : blockAt (advance (withBus true s) 1 [.opened true]) 1 = blockAt s 2 := by simp
  have hreload := pResetDecode_ok (s := advance (withBus true s) 1 [.opened true]) (f := f)
    (by rw [hblock]; exact hacc.congr rfl) rfl fun k hk => (busOkAt_advance _ _ _ _).trans (hok (1 + k) (by omega))
  have hcount : 1 + (ws.length + 4) = ws.length + 5 := by omega
  rw [Proc.andThen_ok (primBusOpen_opens hb (hok 0 (by omega))), hreload, hblock, hacc.reload_opened, advance_advance, hcount]
  rfl

/-- The two shots of EXT_SENSITIVITY from a state whose bus was opened, up to their judgement (R162 steps 2 and 3). -/
theorem twoShots_opened {v : State} {n : Nat} {e : List Event} (hok : ∀ k < 4, busOkAt v (n + k) = true)
    (h1 : (parseSample (sampleAt v (n + 1))).busy = false) (h2 : (parseSample (sampleAt v (n + 3))).busy = false) :
    twoShots (advance (withBus true v) n e) =
      sensResult (sampled (sampleAt v (n + 1)) v).lastRaw (sampled (sampleAt v (n + 1)) v).ovf
        (advance (withBus true (sampled (sampleAt v (n + 3)) (sampled (sampleAt v (n + 1)) v))) (n + 4)
          (e ++ (singleShotEvents v true false (sampleAt v (n + 1)) ++
            singleShotEvents v true true (sampleAt v (n + 3))))) := by
  have hshots := twoShots_eq (s := advance (withBus true v) n e) rfl
    (fun k hk => (busOkAt_advance _ _ _ _).trans (hok k hk)) (by simpa using h1) (by simpa using h2)
  simp only [sampleAt_advance, sampleAt_withBus, sampled_advance, sampled_withBus, advance_advance] at hshots
  exact hshots

section
variable {s u : State} {d : Tri Int} {n : Nat} {e : List Event}

theorem uLinearAcc_opened : uLinearAcc d (advance (withBus true u) n e) = advance (withBus true (uLinearAcc d u)) n e := by
  rw [uLinearAcc_advance, uLinearAcc_withBus]

/-- What the release after the shots records: the linear part leaves the record and the answers to come alone. -/
theorem releaseEvents_uLinearAcc :
    releaseEvents (uLinearAcc d u) (busOkAt (uLinearAcc d u) n) (busOkAt (uLinearAcc d u) (n + 1)) =
      releaseEvents u (busOkAt u n) (busOkAt u (n + 1)) := by
  rw [uLinearAcc_eq]; rfl

/-- EXT_SENSITIVITY on a disabled session whose body ends with a result past the linear part. -/
theorem exec_extSensitivity_ok {r : Response} (hi : s.initialized = true) (hs : s.enable = false) (he : u.enable = false)
    (hb : u.busOpen = false) (hbody : sensitivityBody false s = .ok r (uLinearAcc d (advance (withBus true u) n e))) :
    exec .extSensitivity s = .next { advance (uLinearAcc d u) (n + 2)
      (e ++ releaseEvents u (busOkAt u n) (busOkAt u (n + 1))) with response := some r } := by
  rw [uLinearAcc_opened] at hbody
  rw [exec_extSensitivity hi hs, withRestore_ok ((uLinearAcc_enable d u).trans he) ((uLinearAcc_busOpen d u).trans hb) hbody,
    releaseEvents_uLinearAcc]

/-- One whose body raises there. -/
theorem exec_extSensitivity_err {k : ErrKind} (hi : s.initialized = true) (hs : s.enable = false) (he : u.enable = false)
    (hb : u.busOpen = false) (hbody : sensitivityBody false s = .err k (uLinearAcc d (advance (withBus true u) n e))) :
    exec .extSensitivity s = .next { advance (uLinearAcc d u) (n + 2)
      (e ++ releaseEvents u (busOkAt u n) (busOkAt u (n + 1))) with response := some (errorResponse k) } := by
  rw [uLinearAcc_opened] at hbody
  rw [exec_extSensitivity hi hs, withRestore_err ((uLinearAcc_enable d u).trans he) ((uLinearAcc_busOpen d u).trans hb) hbody,
    releaseEvents_uLinearAcc]

end

/-- The body of EXT_SENSITIVITY on a disabled session up to the judgement of its two shots (R162). -/
theorem sensitivityBody_disabled {s u1 u2 : State} {ws : List (Byte × Byte)} {f : State → State}
    (hacc : Accepts s (blockAt s 2) ws f) (hb : s.busOpen = false) (hok : AnswersOk s (ws.length + 9))
    (h1 : (parseSample (sampleAt s (ws.length + 6))).busy = false)
    (h2 : (parseSample (sampleAt s (ws.length + 8))).busy = false)
    (hu1 : u1 = sampled (sampleAt s (ws.length + 6)) (resetMeasurement (f s)))
    (hu2 : u2 = sampled (sampleAt s (ws.length + 8)) u1) :
    sensitivityBody false s = sensResult u1.lastRaw u1.ovf (advance (withBus true u2) (ws.length + 9)
      ([.opened true] ++ resetDecodeEvents s (blockAt s 2) ws ++
        singleShotEvents s true false (sampleAt s (ws.length + 6)) ++
        singleShotEvents s true true (sampleAt s (ws.length + 8)))) := by
  have hreload : sensitivityBody false s = _ := Proc.andThen_ok (openAndReload_ok hacc hb (hok.le (by omega)))
  have hcfg : (resetMeasurement (f s)).cfg = s.cfg := hacc.cfg_commit
  have havg : (resetMeasurement (f s)).avg = s.avg := hacc.avg_commit
  rw [hreload, twoShots_opened (fun k hk => (hacc.busOkAt_reload _).trans (hok _ (by omega)))
      (by rw [hacc.sampleAt_reload]; exact h1) (by rw [hacc.sampleAt_reload]; exact h2),
    hacc.sampleAt_reload, hacc.sampleAt_reload, singleShotEvents_congr hcfg havg, singleShotEvents_congr hcfg havg,
    ← List.append_assoc, hu2, hu1]

/-- Settles O53: open, reload and two shots (`sensitivityBody_disabled`), judged by their masks (`sensResult_ok`,
`sensResult_overflow`, `sensResult_underflow`); then P_RESTORE, whatever the judgement. -/
theorem sensitivityCompletesDisabled : Obligations.SensitivityCompletesDisabled := by
  rintro s u1 u2 d h ws f evs hi he hb hacc hok hready1 hready2 hu1 hu2 hd rfl rfl
  have hbody := sensitivityBody_disabled hacc hb hok hready1 hready2 hu1 hu2
  have henable : u2.enable = false := by
    rw [hu2, hu1, sampled_enable, sampled_enable]; exact hacc.enable_commit.trans he
  have hclosed : u2.busOpen = false := by
    rw [hu2, hu1, sampled_busOpen, sampled_busOpen]; exact hacc.commit_busOpen.trans hb
  have hbit (k : Nat) : busOkAt u2 k = busOkAt s k := by
    rw [hu2, hu1, busOkAt_sampled, busOkAt_sampled]; exact hacc.busOkAt_reload k
  have hcfg : u2.cfg = (f s).cfg := by rw [hu2, hu1, sampled_cfg, sampled_cfg]; rfl
  have hmodel : u2.model = (f s).model := by rw [hu2, hu1, sampled_model, sampled_model]; rfl
  have hrelease : releaseEvents u2 (busOkAt u2 (ws.length + 9)) (busOkAt u2 (ws.length + 10)) =
      releaseEvents s (busOkAt s (ws.length + 9)) (busOkAt s (ws.length + 10)) := by
    rw [hbit, hbit, releaseEvents, releaseEvents, hcfg, hacc.cfg_commit]
  have hlinear (n : Nat) (e : List Event) : linearPart (advance (withBus true u2) n e) d = linearPart (f s) d :=
    linearPart_congr hmodel hcfg d
  have hvcore (n : Nat) (e : List Event) : (advance (withBus true u2) n e).cfg.sensVcore = s.cfg.sensVcore :=
    congrArg Config.sensVcore (hcfg.trans hacc.cfg_commit)
  rw [← hrelease]
  refine ⟨fun ho1 ho2 => ?clear, fun hover => ?overflow, fun hover hunder => ?underflow⟩
  case clear =>
    have hend := exec_extSensitivity_ok hi he henable hclosed (hbody.trans (sensResult_ok hd.symm ho1 ho2))
    rw [hlinear, hvcore] at hend
    exact hend
  case overflow =>
    exact exec_extSensitivity_err hi he henable hclosed (hbody.trans (sensResult_overflow hd.symm hover))
  case underflow =>
    exact exec_extSensitivity_err hi he henable hclosed (hbody.trans (sensResult_underflow hd.symm hover hunder))

end Sys2Proof.Machine
end

section
/-! Settles the statements of the family on the correction MAC: U_CORRECT and its linear part L are exact, since no accumulator
leaves 32 bits (41_correction_mac.md R111 to R115). -/

namespace Sys2Proof.Machine

/-! ### The accumulators in exact arithmetic -/

/-- Components no wider than a difference of two 14-bit words (R115); a recentred word is one of them. -/
def DifferenceWide (d : Tri Int) : Prop :=
  (-16383 ≤ d.c0 ∧ d.c0 ≤ 16383) ∧ (-16383 ≤ d.c1 ∧ d.c1 ≤ 16383) ∧ (-16383 ≤ d.c2 ∧ d.c2 ≤ 16383)

theorem recentre_bounds (w : BitVec 14) : -8192 ≤ recentre w ∧ recentre w ≤ 8191 := by
  have := w.isLt
  unfold recentre; omega

theorem differenceWide_recentre (w : Tri (BitVec 14)) : DifferenceWide (w.map recentre) := by
  have h0 := recentre_bounds w.c0
  have h1 := recentre_bounds w.c1
  have h2 := recentre_bounds w.c2
  simp only [DifferenceWide, Tri.map]
  omega

/-- The bound of R113 and R115 for one row: the magnitudes of its coefficients add up to at most 640, the most a row can have,
which it has when A1_CONST is -512. -/
theorem toInt_word32_macRow {k a b c : Int} {d : Tri Int} (hk : 0 ≤ k ∧ k ≤ 127)
    (hrow : a.natAbs + b.natAbs + c.natAbs ≤ 640) (hd : DifferenceWide d) :
    (word32 (macRow k a b c d)).toInt = macRow k a b c d := by
  obtain ⟨hd0, hd1, hd2⟩ := hd
  have ha := mul_bounds (a := a) (A := a.natAbs) (by omega) hd0
  have hb := mul_bounds (a := b) (A := b.natAbs) (by omega) hd1
  have hc := mul_bounds (a := c) (A := c.natAbs) (by omega) hd2
  have hsum : -(640 * 16383) ≤ a * d.c0 + b * d.c1 + c * d.c2 ∧ a * d.c0 + b * d.c1 + c * d.c2 ≤ 640 * 16383 := by omega
  have hprod := mul_bounds (a := k) (A := 127) (by omega) hsum
  unfold macRow
  apply word32_toInt <;> omega

/-- The three row products before ACC holds them. -/
def macRows (a1 : Int) (m : CorrModel) (d : Tri Int) : Tri Int :=
  ⟨macRow m.k.toInt a1 m.a2.toInt m.a3.toInt d,
   macRow m.k.toInt m.a4.toInt m.a5.toInt m.a6.toInt d,
   macRow m.k.toInt m.a7.toInt m.a8.toInt m.a9.toInt d⟩

/-- The entry A1_CONST of a well-formed record fits 10 signed bits (10_state.md R22). -/
theorem a1Const_bounds_of_wf {c : Config} (h : c.wf = true) : -512 ≤ c.a1Const ∧ c.a1Const ≤ 511 := by
  simp only [Config.wf, Bool.and_eq_true, decide_eq_true_eq] at h
  obtain ⟨⟨_, hlow⟩, hhigh⟩ := h
  exact ⟨hlow, hhigh⟩

/-- ACC never leaves 32 bits (R113): read back, it is the row product. -/
theorem toInt_macAcc {c : Config} {m : CorrModel} {d : Tri Int} (hwf : c.wf = true) (hm : ModelInRange m)
    (hd : DifferenceWide d) : (macAcc c.a1Const m d).map BitVec.toInt = macRows c.a1Const m d := by
  have ha1 := a1Const_bounds_of_wf hwf
  obtain ⟨ha2, ha3, ha4, ha5, ha6, ha7, ha8, ha9, hk⟩ := hm
  have hrow0 := toInt_word32_macRow hk (a := c.a1Const) (b := m.a2.toInt) (c := m.a3.toInt) (by omega) hd
  have hrow1 := toInt_word32_macRow hk (a := m.a4.toInt) (b := m.a5.toInt) (c := m.a6.toInt) (by omega) hd
  have hrow2 := toInt_word32_macRow hk (a := m.a7.toInt) (b := m.a8.toInt) (c := m.a9.toInt) (by omega) hd
  simp only [macAcc, macRows, Tri.map, hrow0, hrow1, hrow2]

theorem macQuotients_eq (acc : Tri Word) : macQuotients acc = (acc.map BitVec.toInt).map fun v => v.tdiv 8192 := rfl

/-! ### U_CORRECT and L by version -/

/-- The corrected word of a row product: truncating quotient, clamp and re-offset (R112). -/
theorem clampWord_tdiv_toNat (v : Int) :
    ((clampWord (v.tdiv 8192)).toNat : Int) = max (-8192) (min 8191 (v.tdiv 8192)) + 8192 := by
  rw [clampWord_toNat, clampInt_eq_max_min]

/-- Version 0 passes the words through and reads no coefficient (R111). -/
theorem uCorrect_of_version_zero {s : State} (h : s.model.ver = 0#1) (w : Tri (BitVec 14)) : uCorrect w s = { s with c := w } :=
  if_pos h

section
variable {s : State} (h : s.model.ver = 1#1)
include h

theorem version_ne_zero : s.model.ver ≠ 0#1 := by rw [h]; decide

theorem uCorrect_of_version_one (w : Tri (BitVec 14)) : uCorrect w s =
    { s with
      c := (macQuotients (macAcc s.cfg.a1Const s.model (w.map recentre))).map clampWord
      acc := (macAcc s.cfg.a1Const s.model (w.map recentre)).c2 } :=
  if_neg (version_ne_zero h)

theorem linearPart_of_version_one (d : Tri Int) : linearPart s d = macQuotients (macAcc s.cfg.a1Const s.model d) :=
  if_neg (version_ne_zero h)

/-- With exact accumulators the corrected words are the clamped quotients of the row products, and ACC keeps the last of them. -/
theorem uCorrect_exact (hwf : s.cfg.wf = true) (hm : ModelInRange s.model) (w : Tri (BitVec 14)) :
    (uCorrect w s).c = (macRows s.cfg.a1Const s.model (w.map recentre)).map (fun v => clampWord (v.tdiv 8192)) ∧
    (uCorrect w s).acc.toInt = (macRows s.cfg.a1Const s.model (w.map recentre)).c2 := by
  have hacc := toInt_macAcc hwf hm (differenceWide_recentre w)
  rw [uCorrect_of_version_one h, macQuotients_eq, hacc]
  exact ⟨rfl, congrArg Tri.c2 hacc⟩

theorem linearPart_exact (hwf : s.cfg.wf = true) (hm : ModelInRange s.model) {d : Tri Int} (hd : DifferenceWide d) :
    linearPart s d = (macRows s.cfg.a1Const s.model d).map (fun v => v.tdiv 8192) := by
  rw [linearPart_of_version_one h, macQuotients_eq, toInt_macAcc hwf hm hd]

end

/-- Settles O20, by version: the identity, or the row products, which the accumulators hold exactly (`uCorrect_exact`). -/
theorem correctionMatchesFormula : Obligations.CorrectionMatchesFormula := by
  refine fun s w => ⟨fun h => uCorrect_of_version_zero h w, fun h hwf hm => ?_⟩
  obtain ⟨hc, hacc⟩ := uCorrect_exact h hwf hm w
  refine ⟨?_, ?_, ?_, hacc, ?frame⟩
  case frame => rw [uCorrect_of_version_one h]
  all_goals rw [hc]; exact clampWord_tdiv_toNat _

/-- Settles O21: L writes ACC only (`uLinearAcc_eq`), and its accumulators are exact on a difference of two samples
(`linearPart_exact`). -/
theorem linearPartExact : Obligations.LinearPartExact :=
  fun s d => ⟨uLinearAcc_eq d s, fun h => if_pos h, fun h hwf hm h0 h1 h2 => linearPart_exact h hwf hm ⟨h0, h1, h2⟩⟩

end Sys2Proof.Machine
end

section
/-! Settles the statements of the family on the coordinate quantizer: U_CONV is exact (42_coordinate_quantizer.md R122), and
U_ORIENT multiplies by a signed permutation, which the default table gives row by row (R124, R127). -/

namespace Sys2Proof.Machine

theorem get_map_tri {α β : Type} (f : α → β) (t : Tri α) (i : Fin 3) : (t.map f).get i = f (t.get i) := by
  match i with
  | 0 | 1 | 2 => rfl

/-- A triple whose slots all fit 32 signed bits is read back from its registers unchanged. -/
theorem map_toInt_of_fits {t : Tri Int} (h : ∀ i : Fin 3, -2147483648 ≤ t.get i ∧ t.get i ≤ 2147483647) :
    (t.map word32).map BitVec.toInt = t := by
  have hslot (i : Fin 3) : (word32 (t.get i)).toInt = t.get i := word32_toInt (h i).1 (h i).2
  have h0 : (word32 t.c0).toInt = t.c0 := hslot 0
  have h1 : (word32 t.c1).toInt = t.c1 := hslot 1
  have h2 : (word32 t.c2).toInt = t.c2 := hslot 2
  simp only [Tri.map, h0, h1, h2]

/-! ### U_CONV -/

/-- The scaled difference of the two oblique axes, before its division by ten (R122). -/
theorem convProduct_bounds (y1 y2 : BitVec 14) :
    -28375356 ≤ ((y1.toNat : Int) - (y2.toNat : Int)) * 1732 ∧ ((y1.toNat : Int) - (y2.toNat : Int)) * 1732 ≤ 28375356 := by
  have h1 := y1.isLt
  have h2 := y2.isLt
  omega

section
variable (c : Tri (BitVec 14))

theorem convInts_c0_bounds : -2457600 ≤ (convInts c).c0 ∧ (convInts c).c0 ≤ 2457300 := by
  have h := c.c0.isLt
  simp only [convInts]; omega

/-- Truncating towards zero divides the magnitude of the product by ten. -/
theorem convInts_c1_bounds : -2837535 ≤ (convInts c).c1 ∧ (convInts c).c1 ≤ 2837535 := by
  have hprod := convProduct_bounds c.c1 c.c2
  have htenth := tdiv_ten_natAbs (((c.c1.toNat : Int) - (c.c2.toNat : Int)) * 1732)
  simp only [convInts]; omega

theorem convInts_c2_bounds : -4914600 ≤ (convInts c).c2 ∧ (convInts c).c2 ≤ 4915200 := by
  have h1 := c.c1.isLt
  have h2 := c.c2.isLt
  simp only [convInts]; omega

end

/-- The physical values fit 32 bits, so P holds them exactly. -/
theorem uConv_exact (s : State) : (uConv s).p.map BitVec.toInt = convInts s.c := by
  have h0 := convInts_c0_bounds s.c
  have h1 := convInts_c1_bounds s.c
  have h2 := convInts_c2_bounds s.c
  refine map_toInt_of_fits fun i => ?_
  match i with
  | 0 | 1 | 2 => simp only [Tri.get]; omega

/-- Settles O23: P holds the exact values (`uConv_exact`), which have the ranges of `convInts`. -/
theorem physicalConversionExact : Obligations.PhysicalConversionExact := by
  intro s
  have h0 : (uConv s).p.c0.toInt = (convInts s.c).c0 := congrArg Tri.c0 (uConv_exact s)
  have h1 : (uConv s).p.c1.toInt = (convInts s.c).c1 := congrArg Tri.c1 (uConv_exact s)
  have h2 : (uConv s).p.c2.toInt = (convInts s.c).c2 := congrArg Tri.c2 (uConv_exact s)
  rw [h0, h1, h2]
  exact ⟨rfl, rfl, rfl, convInts_c0_bounds s.c, convInts_c1_bounds s.c, convInts_c2_bounds s.c,
    ⟨Dvd.intro_left _ rfl, Dvd.intro_left _ rfl⟩, convProduct_bounds s.c.c1 s.c.c2, rfl⟩

/-! ### Signed permutations -/

theorem isSignedUnit_iff {r : Tri Int} : r.isSignedUnit = true ↔
    (r.c0.natAbs = 1 ∧ r.c1 = 0 ∧ r.c2 = 0) ∨ (r.c0 = 0 ∧ r.c1.natAbs = 1 ∧ r.c2 = 0) ∨
      (r.c0 = 0 ∧ r.c1 = 0 ∧ r.c2.natAbs = 1) := by
  simp only [Tri.isSignedUnit, Bool.or_eq_true, Bool.and_eq_true, beq_iff_eq, and_assoc, or_assoc]

theorem isSignedUnit_row {m : Tri (Tri Int)} (h : isSignedPermutation m = true) (i : Fin 3) : (m.get i).isSignedUnit = true := by
  simp only [isSignedPermutation, Bool.and_eq_true] at h
  obtain ⟨⟨⟨⟨⟨hrow0, hrow1⟩, hrow2⟩, _⟩, _⟩, _⟩ := h
  match i with
  | 0 => exact hrow0
  | 1 => exact hrow1
  | 2 => exact hrow2

/-- An entry 1 or -1 passes its factor through or negates it. -/
theorem mul_eq_or_neg_of_natAbs_one {a : Int} (h : a.natAbs = 1) (x : Int) : a * x = x ∨ a * x = -x := by
  obtain rfl | rfl := Int.natAbs_eq_iff.mp h
  · exact .inl (one_mul x)
  · exact .inr (neg_one_mul x)

/-- A row with one non-zero entry, 1 or -1, selects one component, perhaps negated: no sum of two non-zero terms forms (R124). -/
theorem rowDot_signedUnit {r : Tri Int} (h : r.isSignedUnit = true) (p : Tri Int) :
    ∃ j : Fin 3, rowDot r p = p.get j ∨ rowDot r p = -p.get j := by
  obtain ⟨h0, h1, h2⟩ | ⟨h0, h1, h2⟩ | ⟨h0, h1, h2⟩ := isSignedUnit_iff.mp h
  · exact ⟨0, by simpa [rowDot, Tri.get, h1, h2] using mul_eq_or_neg_of_natAbs_one h0 p.c0⟩
  · exact ⟨1, by simpa [rowDot, Tri.get, h0, h2] using mul_eq_or_neg_of_natAbs_one h1 p.c1⟩
  · exact ⟨2, by simpa [rowDot, Tri.get, h0, h1] using mul_eq_or_neg_of_natAbs_one h2 p.c2⟩

theorem matVec_get (m : Tri (Tri Int)) (p : Tri Int) (i : Fin 3) : (matVec m p).get i = rowDot (m.get i) p :=
  get_map_tri _ m i

theorem matVec_identity (p : Tri Int) : matVec identityMatrix p = p := by
  simp [matVec, identityMatrix, Tri.map, rowDot]

/-! ### The orientation table -/

/-- All a model may rely on of `ORIENT` (R127): signed permutations, with the identity at position 2. -/
structure OrientTableLegal (c : Config) : Prop where
  signed : ∀ k : BitVec 3, isSignedPermutation (orientMatrix c k) = true
  identity : orientMatrix c 2#3 = identityMatrix

theorem orientTableLegal_of_wf {c : Config} (h : c.wf = true) : OrientTableLegal c := by
  simp only [Config.wf, Bool.and_eq_true, beq_iff_eq] at h
  obtain ⟨⟨⟨⟨⟨hsigned, hidentity⟩, _⟩, _⟩, _⟩, _⟩ := h
  exact ⟨fun k => Vector.all_eq_true.mp hsigned k.toNat k.isLt, hidentity⟩

theorem orientMatrix_default {c : Config} (h : c.orient = defaultOrient) (k : BitVec 3) :
    orientMatrix c k = defaultOrient.get k.toFin := by
  rw [orientMatrix, h]

theorem orientTableLegal_of_default {c : Config} (h : c.orient = defaultOrient) : OrientTableLegal c where
  signed k := by
    rw [orientMatrix_default h]
    revert k
    decide
  identity := by
    rw [orientMatrix_default h]
    decide

/-! ### U_ORIENT -/

/-- Position 2 performs no transform (R124). -/
theorem uOrient_v_of_identity_position {s : State} (h : s.position = 2#3) : (uOrient s).v = s.p := by
  rw [uOrient, if_pos h]

theorem uOrient_v_of_other_position {s : State} (h : s.position ≠ 2#3) :
    (uOrient s).v = (matVec (orientMatrix s.cfg s.position) (s.p.map BitVec.toInt)).map word32 := by
  rw [uOrient, if_neg h]

/-- U_ORIENT writes V only. -/
theorem uOrient_eq (s : State) : uOrient s = { s with v := (uOrient s).v } := by
  unfold uOrient; split <;> rfl

section
variable {s : State} (horient : OrientTableLegal s.cfg)
include horient

/-- Each component of the product is a component of P, perhaps negated. -/
theorem matVec_orientMatrix_get (i : Fin 3) : ∃ j : Fin 3,
    (matVec (orientMatrix s.cfg s.position) (s.p.map BitVec.toInt)).get i = (s.p.get j).toInt ∨
    (matVec (orientMatrix s.cfg s.position) (s.p.map BitVec.toInt)).get i = -(s.p.get j).toInt := by
  simp only [matVec_get, ← get_map_tri BitVec.toInt s.p]
  exact rowDot_signedUnit (isSignedUnit_row (horient.signed s.position) i) _

/-- V holds the matrix product exactly: the components of P are away from -2^31, the one value whose negation wraps. Both arms
of U_ORIENT agree with it, since the matrix of position 2 is the identity. -/
theorem uOrient_exact (hp : ∀ i : Fin 3, (s.p.get i).toInt.natAbs ≤ 4915200) :
    (uOrient s).v.map BitVec.toInt = matVec (orientMatrix s.cfg s.position) (s.p.map BitVec.toInt) := by
  by_cases hpos : s.position = 2#3
  · rw [uOrient_v_of_identity_position hpos, hpos, horient.identity, matVec_identity]
  · rw [uOrient_v_of_other_position hpos]
    refine map_toInt_of_fits fun i => ?_
    obtain ⟨j, hj⟩ := matVec_orientMatrix_get horient i
    have hbound := hp j
    omega

end

/-- Settles O24: V is the exact product (`uOrient_exact`), whose rows each select one component (`matVec_orientMatrix_get`). -/
theorem orientationIsSignedPermutation : Obligations.OrientationIsSignedPermutation := by
  intro s hwf hp
  have horient := orientTableLegal_of_wf hwf
  have hv (i : Fin 3) : ((uOrient s).v.get i).toInt =
      (matVec (orientMatrix s.cfg s.position) (s.p.map BitVec.toInt)).get i := by
    rw [← uOrient_exact horient hp, get_map_tri]
  refine ⟨uOrient_v_of_identity_position, fun i => ?product, fun i => ?component, uOrient_eq s⟩
  case product =>
    rw [hv, matVec_get]
    rfl
  case component =>
    rw [hv]
    exact matVec_orientMatrix_get horient i

/-- The rows of the default table (R127): each product by its matrix, for any vector. -/
theorem matVec_defaultOrient (p : Tri Int) :
    matVec (defaultOrient.get 0) p = ⟨-p.c0, -p.c1, p.c2⟩ ∧
    matVec (defaultOrient.get 1) p = ⟨-p.c1, p.c0, p.c2⟩ ∧
    matVec (defaultOrient.get 2) p = ⟨p.c0, p.c1, p.c2⟩ ∧
    matVec (defaultOrient.get 3) p = ⟨p.c1, -p.c0, p.c2⟩ ∧
    matVec (defaultOrient.get 4) p = ⟨p.c0, -p.c1, -p.c2⟩ ∧
    matVec (defaultOrient.get 5) p = ⟨p.c1, p.c0, -p.c2⟩ ∧
    matVec (defaultOrient.get 6) p = ⟨-p.c0, p.c1, -p.c2⟩ ∧
    matVec (defaultOrient.get 7) p = ⟨-p.c1, -p.c0, -p.c2⟩ := by
  simp [defaultOrient, Vector.get, matVec, Tri.map, rowDot]

/-- Settles O25: V is the exact product (`uOrient_exact`) by the default matrix of the position (`matVec_defaultOrient`). -/
theorem defaultOrientationTable : Obligations.DefaultOrientationTable := by
  intro s hdefault hp
  have hv {k : BitVec 3} (hpos : s.position = k) :
      (uOrient s).v.map BitVec.toInt = matVec (defaultOrient.get k.toFin) (s.p.map BitVec.toInt) := by
    rw [uOrient_exact (orientTableLegal_of_default hdefault) hp, orientMatrix_default hdefault, hpos]
  obtain ⟨h0, h1, h2, h3, h4, h5, h6, h7⟩ := matVec_defaultOrient (s.p.map BitVec.toInt)
  exact ⟨fun h => (hv h).trans h0, fun h => (hv h).trans h1, fun h => (hv h).trans h2, fun h => (hv h).trans h3,
    fun h => (hv h).trans h4, fun h => (hv h).trans h5, fun h => (hv h).trans h6, fun h => (hv h).trans h7⟩

end Sys2Proof.Machine
end

section
/-! Settles the statements of the measurement-FSM family that MeasureInNormal and MeasureInInitCoil leave: MEASURE in the state
RecordData (43_measurement_fsm.md R139, R145), and MEASURE with a busy sample or a failed data read (R144, 45_host_commands.md
R197, 60_exceptions.md R235). -/

namespace Sys2Proof.Machine

/-! ### State RecordData -/

/-- A triple is no distance away from itself. -/
theorem drift_self (c : Tri (BitVec 14)) : drift c c = false := by
  rw [← Bool.not_eq_true, drift_iff]
  rintro ⟨i, hi⟩
  omega

theorem uFsm_recordData {now : Word} {s : State} (h : s.mstate = mRecordData) :
    uFsm now s = .ok () (fsmRecordData now s) := by
  simp [uFsm, h, mInitCoil, mRecordData]

theorem fsmRecordData_of_bad {now : Word} {s : State} (h : s.raw.bad = true) : fsmRecordData now s = s := if_pos h

/-- A good sample is captured as the baseline and judged in Normal at once (R139). -/
theorem fsmRecordData_of_good {now : Word} {s : State} (h : s.raw.bad = false) :
    fsmRecordData now s = fsmNormal now { s with base := s.c, mstate := mNormal } := if_neg (ne_true_of_eq_false h)

/-- Against the baseline it has just become, a sample is anomalous only by its mask (R141, R145). -/
theorem anomaly_rebased (s : State) : anomaly { s with base := s.c, mstate := mNormal } = (s.ovf != 0#6) := by
  rw [anomaly, drift_self, Bool.false_or]

theorem fsmRecordData_of_clear {now : Word} {s : State} (hbad : s.raw.bad = false) (hovf : s.ovf = 0#6) :
    fsmRecordData now s = { s with base := s.c, mstate := mNormal, invalid := false } := by
  rw [fsmRecordData_of_good hbad, fsmNormal_of_clear (by rw [anomaly_rebased, hovf]; rfl)]

/-- The mask is not zero, so no drift status is added to the values (R143). -/
theorem fsmRecordData_of_masked {now : Word} {s : State} (hbad : s.raw.bad = false) (hovf : s.ovf ≠ 0#6) :
    fsmRecordData now s =
      { s with base := s.c, mstate := mInitCoil, onset := if s.invalid then s.onset else now, invalid := true } := by
  rw [fsmRecordData_of_good hbad, fsmNormal_of_anomaly ((anomaly_rebased s).trans (bne_iff_ne.mpr hovf)), if_neg hovf]

/-- Settles O31: U_FSM in RecordData by the BAD flag of the sample, and for a good one by its mask. -/
theorem measureInRecordData : Obligations.MeasureInRecordData := by
  intro s hready hm
  have hexec := exec_measure_of_fsm_ok hready (uFsm_recordData (now := measureTime s) ((measured_mstate s).trans hm))
  refine ⟨fun hbad => ?bad, fun hgood hovf => ?clear, fun hgood hovf => ?masked⟩
  case bad => rw [hexec, fsmRecordData_of_bad hbad]
  case clear => rw [hexec, fsmRecordData_of_clear hgood hovf]; rfl
  case masked => rw [hexec, fsmRecordData_of_masked hgood hovf, measured_invalid, measured_onset]; rfl

/-! ### A MEASURE that does not reach the state machine -/

/-- A MEASURE whose P_MEASURE raises answers the error, the state otherwise as the error left it (R232). -/
theorem exec_measure_of_err {s u : State} {e : ErrKind} (hi : s.initialized = true) (h : pMeasure s = .err e u) :
    exec .measure s = .next { u with response := some (errorResponse e) } :=
  (guarded_initialized hi).trans (congrArg finish h)

/-- Settles O32: a busy sample stops at `pMeasure_busy`, a failed data read at `pMeasure_readFails`. -/
theorem measureBusyOrReadFails : Obligations.MeasureBusyOrReadFails := fun _ hi he hb =>
  ⟨fun hok hbusy => exec_measure_of_err hi (pMeasure_busy he hb hok hbusy),
    fun hfail => exec_measure_of_err hi (pMeasure_readFails he hb hfail)⟩

end Sys2Proof.Machine
end

section
/-! Settles the statements of the self-test controller family on the diagnostics that take single shots: how P_RESTORE ends one
on either kind of session, the errors of EXT_SELF_TEST in their order, and EXT_SENSITIVITY on an enabled session
(44_self_test_controller.md R156 to R164, 60_exceptions.md R234). -/

namespace Sys2Proof.Machine

/-! ### What the body of a diagnostic leaves to its cleanup -/

/-- The second state holds what P_RESTORE and the bus go by as the first does: the record, AVG, ENABLE, BUSOPEN, and the
answers to come. -/
structure KeepsLink (s v : State) : Prop where
  cfg : v.cfg = s.cfg
  avg : v.avg = s.avg
  enable : v.enable = s.enable
  busOpen : v.busOpen = s.busOpen
  busScript : v.busScript = s.busScript
  busDraws : v.busDraws = s.busDraws

section
variable {s v : State}

theorem KeepsLink.refl (s : State) : KeepsLink s s := ⟨rfl, rfl, rfl, rfl, rfl, rfl⟩

theorem KeepsLink.reload {B : CalBlock} {ws : List (Byte × Byte)} {f : State → State} (h : Accepts s B ws f) :
    KeepsLink s (resetMeasurement (f s)) := by
  cases h <;> exact ⟨rfl, rfl, rfl, rfl, rfl, rfl⟩

theorem KeepsLink.sampled (h : KeepsLink s v) (D : Fin 8 → Byte) : KeepsLink s (sampled D v) := by
  rw [sampled_eq]; exact { h with }

theorem KeepsLink.uConv (h : KeepsLink s v) : KeepsLink s (uConv v) := { h with }

theorem KeepsLink.uLinearAcc (h : KeepsLink s v) (d : Tri Int) : KeepsLink s (uLinearAcc d v) := by
  rw [uLinearAcc_eq]; exact { h with }

theorem KeepsLink.busOkAt_eq (h : KeepsLink s v) (k : Nat) : busOkAt v k = busOkAt s k :=
  busOkAt_congr h.busScript h.busDraws k

theorem KeepsLink.restartEvents_eq (h : KeepsLink s v) (ok : Bool) : restartEvents v ok = restartEvents s ok := by
  rw [restartEvents, restartEvents, h.cfg, h.avg]

theorem KeepsLink.releaseEvents_eq (h : KeepsLink s v) (ok1 ok2 : Bool) : releaseEvents v ok1 ok2 = releaseEvents s ok1 ok2 := by
  rw [releaseEvents, releaseEvents, h.cfg]

end

/-! ### P_RESTORE on either kind of session -/

section
variable {p : Proc Response} {s v : State} {n : Nat} {e : List Event}

/-- From a session with the bus opened for the diagnostic, P_RESTORE ends with BUSOPEN and ENABLE as they were, whatever the
environment answers (R157, 70_reset_and_hazards.md R260). -/
theorem pRestore_eq (hb : s.busOpen = s.enable) (h : KeepsLink s v) :
    (pRestore s.enable).ignore (advance (withBus true v) n e) =
      .ok () (advance v (n + restoreCount s) (e ++ restoreEvents s n)) := by
  unfold restoreCount restoreEvents
  cases he : s.enable with
  | true =>
    have hopen : v.busOpen = true := h.busOpen.trans (hb.trans he)
    have hrestart := pRestore_enabled (s := advance v n e) hopen
    rw [busOkAt_advance, h.busOkAt_eq, advance_advance] at hrestart
    rw [withBus_self hopen, Proc.ignore_ok hrestart, if_pos rfl, if_pos rfl, ← h.restartEvents_eq]
    rfl
  | false =>
    rw [pRestore_opened (h.enable.trans he) (h.busOpen.trans (hb.trans he)), h.releaseEvents_eq, h.busOkAt_eq, h.busOkAt_eq]
    rfl

/-- A diagnostic whose body ends with a result (R155, R157). -/
theorem diagnostic_ok {r : Response} (hb : s.busOpen = s.enable) (h : KeepsLink s v)
    (hp : p s = .ok r (advance (withBus true v) n e)) : finish (p.withCleanup (pRestore s.enable) s) =
      .next { advance v (n + restoreCount s) (e ++ restoreEvents s n) with response := some r } := by
  rw [Proc.withCleanup_ok hp (pRestore_eq hb h)]
  rfl

/-- One whose body raises: the cleanup is the same, and the error stands (R155, 60_exceptions.md R239). -/
theorem diagnostic_err {k : ErrKind} (hb : s.busOpen = s.enable) (h : KeepsLink s v)
    (hp : p s = .err k (advance (withBus true v) n e)) : finish (p.withCleanup (pRestore s.enable) s) =
      .next { advance v (n + restoreCount s) (e ++ restoreEvents s n) with response := some (errorResponse k) } := by
  rw [Proc.withCleanup_err hp (pRestore_eq hb h)]
  rfl

end

/-! ### EXT_SELF_TEST up to the judgement of its shot -/

section
variable {s : State}

/-- The first step of the self-test leaves the bus open: it is so already, or one transaction opens it (R160 step 1). -/
theorem openForTest_ok {n : Nat} (hb : s.busOpen = s.enable) (hn : n = if s.enable then 0 else 1) (hok : AnswersOk s n) :
    (if s.enable then Proc.pure () else primBusOpen) s = .ok () (advance (withBus true s) n (openEvents s)) := by
  subst hn
  unfold openEvents
  cases he : s.enable with
  | true => rw [withBus_self (hb.trans he)]; exact congrArg (Res.ok ()) (advance_zero s).symm
  | false => rw [he] at hok; exact primBusOpen_opens (hb.trans he) hok.first

/-- The body past its shot, on either kind of session: Busy, or the judgement of the sample (R160 steps 1 to 4). -/
theorem selfTestBody_eq {u : State} {n : Nat} {ws : List (Byte × Byte)} {f : State → State} {D : Fin 8 → Byte}
    (hb : s.busOpen = s.enable) (hn : n = if s.enable then 0 else 1) (hacc : Accepts s (blockAt s (n + 1)) ws f)
    (hok : AnswersOk s (n + (ws.length + 6))) (hD : D = sampleAt s (n + (ws.length + 5)))
    (hu : u = sampled D (resetMeasurement (f s))) :
    selfTestBody s.enable s =
      (if (parseSample D).busy then raise .busy else judgeDirection) (advance (withBus true u) (n + (ws.length + 6))
        (openEvents s ++ (resetDecodeEvents s (blockAt s (n + 1)) ws ++ singleShotEvents s false false D))) := by
  have hblock : blockAt (advance (withBus true s) n (openEvents s)) 1 = blockAt s (n + 1) := by simp
  have hsample : sampleAt (advance (withBus true s) n (openEvents s)) (ws.length + 5) = D := by simp [hD]
  have hshot := reloadAndShot_eq (s := advance (withBus true s) n (openEvents s)) (f := f)
    (by rw [hblock]; exact hacc.congr rfl) rfl fun k hk => (busOkAt_advance _ _ _ _).trans (hok (n + k) (by omega))
  rw [hblock, hsample, hacc.reload_opened, sampled_advance, sampled_withBus, ← hu, advance_advance] at hshot
  have hopen : selfTestBody s.enable s = _ := Proc.andThen_ok (openForTest_ok hb hn (hok.le (by omega)))
  rw [hopen]
  cases hbusy : (parseSample D).busy with
  | true => rw [hbusy] at hshot; exact Proc.andThen_err hshot
  | false => rw [hbusy] at hshot; exact Proc.andThen_ok hshot

end

/-- Settles O51: past the shot (`selfTestBody_eq`) the sample is judged in the order of the model's tests, and P_RESTORE follows
whatever was raised (`diagnostic_err`). -/
theorem selfTestErrorsInOrder : Obligations.SelfTestErrorsInOrder := by
  rintro s u k ws f D evs hi hb hk hacc hok hD hu rfl
  obtain ⟨n, rfl, hn⟩ : ∃ n, k = n + 1 ∧ n = if s.enable then 0 else 1 := by
    refine ⟨if s.enable then 0 else 1, ?_, rfl⟩
    rw [hk]; split <;> rfl
  have hcount : n + 1 + ws.length + 5 = n + (ws.length + 6) := by omega
  have hplace : n + 1 + ws.length + 4 = n + (ws.length + 5) := by omega
  rw [hcount] at hok ⊢
  rw [hplace] at hD
  have hbody := selfTestBody_eq hb hn hacc hok hD hu
  rw [← List.append_assoc] at hbody
  have hlink : KeepsLink s u := by rw [hu]; exact (KeepsLink.reload hacc).sampled D
  rw [exec_extSelfTest hi rfl]
  refine ⟨fun hbusy => ?busy, fun hready hover => ?overflow, fun hready hover hunder => ?underflow,
    fun hready hclear hzero => ?zero⟩
  case busy =>
    rw [hbusy] at hbody
    exact diagnostic_err hb hlink hbody
  case overflow =>
    rw [hready] at hbody
    exact diagnostic_err hb hlink (hbody.trans (judgeDirection_overflow hover))
  case underflow =>
    rw [hready] at hbody
    exact diagnostic_err hb hlink (hbody.trans (judgeDirection_underflow hover hunder))
  case zero =>
    rw [hready] at hbody
    exact diagnostic_err hb hlink.uConv (hbody.trans (judgeDirection_zero hclear ((direction_zero_iff _).mpr hzero)))

/-! ### EXT_SENSITIVITY on an enabled session -/

/-- The body on an enabled session up to the judgement of its two shots: nothing is reloaded (R162). -/
theorem sensitivityBody_enabled {s u1 u2 : State} (he : s.enable = true) (hb : s.busOpen = true) (hok : AnswersOk s 4)
    (h1 : (parseSample (sampleAt s 1)).busy = false) (h2 : (parseSample (sampleAt s 3)).busy = false)
    (hu1 : u1 = sampled (sampleAt s 1) s) (hu2 : u2 = sampled (sampleAt s 3) u1) :
    sensitivityBody s.enable s = sensResult u1.lastRaw u1.ovf (advance u2 4
      (singleShotEvents s true false (sampleAt s 1) ++ singleShotEvents s true true (sampleAt s 3))) := by
  subst hu2 hu1
  rw [he]
  exact (Proc.andThen_ok (Proc.pure_apply () s)).trans (twoShots_eq hb hok h1 h2)

/-- Settles O52: the two shots (`sensitivityBody_enabled`), judged by their masks (`sensResult_ok`, `sensResult_overflow`,
`sensResult_underflow`); then P_RESTORE, whatever the judgement. -/
theorem sensitivityCompletesEnabled : Obligations.SensitivityCompletesEnabled := by
  rintro s u1 u2 d h evs hi he hb hok hready1 hready2 hu1 hu2 hd rfl rfl
  have hbody := sensitivityBody_enabled he hb hok hready1 hready2 hu1 hu2
  have hlink : KeepsLink s u2 := by rw [hu2, hu1]; exact ((KeepsLink.refl s).sampled _).sampled _
  have hmodel : u2.model = s.model := by rw [hu2, hu1, sampled_model, sampled_model]
  have hlinear (n : Nat) (e : List Event) : linearPart (advance u2 n e) d = linearPart s d :=
    linearPart_congr hmodel hlink.cfg d
  have hend (n : Nat) (e : List Event) : uLinearAcc d (advance u2 n e) = advance (withBus true (uLinearAcc d u2)) n e := by
    rw [uLinearAcc_advance, withBus_self ((uLinearAcc_busOpen d u2).trans (hlink.busOpen.trans hb))]
  have hboth : s.busOpen = s.enable := hb.trans he.symm
  have hcount : 4 + restoreCount s = 5 := by rw [restoreCount, if_pos he]
  have hevents : restoreEvents s 4 = restartEvents s (busOkAt s 4) := if_pos he
  rw [← hevents, ← hcount, exec_extSensitivity hi rfl]
  refine ⟨fun ho1 ho2 => ?clear, fun hover => ?overflow, fun hover hunder => ?underflow⟩
  case clear =>
    have hanswer := hbody.trans (sensResult_ok hd.symm ho1 ho2)
    rw [hlinear, hend] at hanswer
    have hexec := diagnostic_ok hboth (hlink.uLinearAcc d) hanswer
    rw [advance_cfg, hlink.cfg] at hexec
    exact hexec
  case overflow =>
    have herr := hbody.trans (sensResult_overflow hd.symm hover)
    rw [hend] at herr
    exact diagnostic_err hboth (hlink.uLinearAcc d) herr
  case underflow =>
    have herr := hbody.trans (sensResult_underflow hd.symm hover hunder)
    rw [hend] at herr
    exact diagnostic_err hboth (hlink.uLinearAcc d) herr

end Sys2Proof.Machine
end

section
/-! Settles the statements of the self-test controller family on EXT_NOISE_TEST, which runs P_MEASURE in place of a shot, and on
what all three diagnostics restore (44_self_test_controller.md R155, R157, R165, 70_reset_and_hazards.md R264). -/

namespace Sys2Proof.Machine

/-! ### EXT_NOISE_TEST around its measurement -/

/-- The answer of EXT_NOISE_TEST: the deviations of LAST_RAW from the midpoint (R165). -/
def noiseResponse (w : Tri (BitVec 16)) : Response :=
  okResponse (noiseDeviation w.c0) (noiseDeviation w.c1) (noiseDeviation w.c2) 0

theorem exec_extNoiseTest {s : State} {was : Bool} (hi : s.initialized = true) (he : s.enable = was) :
    exec .extNoiseTest s = finish ((noiseBody was).withCleanup (noiseCleanup was) s) := by
  subst he
  exact guarded_initialized hi

/-- On an enabled session the body is P_MEASURE with the deviations in place of its answer (R165). -/
theorem noiseBody_enabled (s : State) : noiseBody true s =
    (pMeasure.bind fun _ => fun t => .ok (noiseResponse t.lastRaw) t) s :=
  Proc.andThen_ok (Proc.pure_apply () s)

/-- There is nothing to clean up on a session that was enabled. -/
theorem noiseCleanup_enabled (s : State) : (noiseCleanup true).ignore s = .ok () s := rfl

/-- What the body enabled is disabled, whatever the environment answers (R165, 45_host_commands.md R186). -/
theorem noiseCleanup_disabled {s : State} (he : s.enable = true) (hb : s.busOpen = true) :
    (noiseCleanup false).ignore s = .ok () (advance (released s) 2 (releaseEvents s (busOkAt s 0) (busOkAt s 1))) := by
  have hcleanup : noiseCleanup false s = pDisable.ignore s := if_pos (by rw [he]; rfl)
  exact Proc.ignore_ok (hcleanup.trans (pDisable_ignore hb))

section
variable {s u : State} (hi : s.initialized = true) (he : s.enable = true)
include hi he

/-- EXT_NOISE_TEST on an enabled session whose P_MEASURE ends with a sample: the sample is dropped. -/
theorem exec_extNoiseTest_of_measure_ok {r : Response} (h : pMeasure s = .ok r u) :
    exec .extNoiseTest s = .next (deliver (noiseResponse u.lastRaw) u) := by
  have hbody := (noiseBody_enabled s).trans (Proc.bind_ok h)
  rw [exec_extNoiseTest hi he, Proc.withCleanup_ok hbody (noiseCleanup_enabled u), finish_ok]

/-- One whose P_MEASURE raises answers that error. -/
theorem exec_extNoiseTest_of_measure_err {e : ErrKind} (h : pMeasure s = .err e u) :
    exec .extNoiseTest s = .next (respondError e u) := by
  have hbody := (noiseBody_enabled s).trans (Proc.bind_err h)
  rw [exec_extNoiseTest hi he, Proc.withCleanup_err hbody (noiseCleanup_enabled u), finish_err]

end

theorem statusCode_ne_zero (e : ErrKind) : statusCode e ≠ 0 := by cases e <;> decide

/-- Settles O54: both commands end where P_MEASURE does, a sample with status OK or an error with another. -/
theorem noiseTestMirrorsMeasure : Obligations.NoiseTestMirrorsMeasure := by
  intro s t r hi he hexec hr
  obtain ⟨hi', _⟩ | ⟨_, ⟨a, u, hmeasure, rfl⟩ | ⟨e, u, hmeasure, rfl⟩⟩ := guarded_next (p := pMeasure) hexec
  case inl => exact absurd hi (ne_true_of_eq_false hi')
  case inr.inl =>
    obtain rfl := Option.some.inj hr
    have ⟨hstatus, _⟩ := pMeasure_returns s u a hmeasure
    have hnoise := exec_extNoiseTest_of_measure_ok hi he hmeasure
    exact ⟨fun _ => hnoise, fun hne => absurd hstatus hne⟩
  case inr.inr =>
    obtain rfl := Option.some.inj hr
    exact ⟨fun hzero => absurd hzero (statusCode_ne_zero e), fun _ => exec_extNoiseTest_of_measure_err hi he hmeasure⟩

/-! ### EXT_NOISE_TEST on a disabled session -/

theorem measured_enable (s : State) : (measured s).enable = s.enable := by
  rw [measured, timed_eq]; simp [quantised, sampled]

theorem Accepts.initialized_commit {s t : State} {B : CalBlock} {ws : List (Byte × Byte)} {f : State → State}
    (h : Accepts s B ws f) : (f t).initialized = t.initialized := by cases h <;> rfl

/-- A P_MEASURE in state Normal with a sample ready ends with U_FSM's Normal arm (43_measurement_fsm.md R137, R140). -/
theorem pMeasure_normal {s : State} (h : SampleReady s) (hm : s.mstate = mNormal) : pMeasure s =
    .ok (sampleResponse (fsmNormal (measureTime s) (measured s)).q) (fsmNormal (measureTime s) (measured s)) :=
  (pMeasure_ready h).trans (Proc.andThen_ok (uFsm_normal ((measured_mstate s).trans hm)))

/-- The body on a disabled session whose enable succeeds and whose sample is ready, the measurement state fresh (R165). -/
theorem noiseBody_disabled {s e : State} (henable : pEnable s = .ok () e) (h : SampleReady e) (hm : e.mstate = mNormal) :
    noiseBody false s = .ok (noiseResponse (fsmNormal (measureTime e) (measured e)).lastRaw)
      (fsmNormal (measureTime e) (measured e)) := by
  have hbody : noiseBody false s = _ := Proc.andThen_ok henable
  exact hbody.trans (Proc.bind_ok (pMeasure_normal h hm))

/-- Settles O55: P_ENABLE (`pEnable_ok`) leaves state Normal for P_MEASURE (`noiseBody_disabled`), and the disable after it
ends the same way whatever the environment answers (`noiseCleanup_disabled`). -/
theorem noiseTestCompletesDisabled : Obligations.NoiseTestCompletesDisabled := by
  rintro s e m ws f hi hs hb hacc hok he hready rfl
  have henable : pEnable s = .ok () e := by rw [he]; exact pEnable_ok hacc hb (hok.le (by omega))
  have hbit (k : Nat) : busOkAt e k = busOkAt s (ws.length + 6 + k) := by
    rw [he, busOkAt_advance]; exact hacc.busOkAt_reload _
  have hsample : sampleAt e 0 = sampleAt s (ws.length + 6) := by
    rw [he, sampleAt_advance]; exact hacc.sampleAt_reload _
  have hinit : e.initialized = true := by rw [he]; exact hacc.initialized_commit.trans hi
  have hcfg : e.cfg = s.cfg := by rw [he]; exact hacc.cfg_commit
  have hon : e.enable = true := by rw [he]; rfl
  have hopen : e.busOpen = true := by rw [he]; rfl
  have hnormal : e.mstate = mNormal := by rw [he]; rfl
  have hbody := noiseBody_disabled henable
    ⟨hinit, hon, hopen, (hbit 0).trans (hok _ (by omega)), by rw [hsample]; exact hready⟩ hnormal
  have hafter (k : Nat) : busOkAt (fsmNormal (measureTime e) (measured e)) k = busOkAt s (ws.length + 7 + k) := by
    have hcount : ws.length + 6 + (1 + k) = ws.length + 7 + k := by omega
    calc busOkAt (fsmNormal (measureTime e) (measured e)) k
        = busOkAt (measured e) k := busOkAt_congr (fsmNormal_busScript _ _) (fsmNormal_busDraws _ _) k
      _ = busOkAt s (ws.length + 7 + k) := by rw [busOkAt_measured, hbit, hcount]
  have hcleanup := noiseCleanup_disabled (s := fsmNormal (measureTime e) (measured e))
    (by rw [fsmNormal_enable, measured_enable, hon]) (by rw [fsmNormal_busOpen, measured_busOpen, hopen])
  rw [hafter, hafter, releaseEvents, fsmNormal_cfg, measured_cfg, hcfg] at hcleanup
  rw [exec_extNoiseTest hi hs, Proc.withCleanup_ok hbody hcleanup]
  rfl

/-! ### What a diagnostic restores -/

/-- A guarded command whose procedure ends, with a result or an error, with ENABLE and BUSOPEN at the session's values. -/
theorem guarded_restores {p : Proc Response} {s t : State} (h : guarded p s = .next t) (hinv : SessionInv s)
    (hp : Live LegalSession s.enable s.enable s →
      (p s).Sat (fun _ => Live LegalSession s.enable s.enable) (fun _ => Live LegalSession s.enable s.enable)) :
    t.enable = s.enable ∧ t.busOpen = s.busOpen ∧ t.initialized = s.initialized := by
  obtain ⟨_, rfl⟩ | ⟨hi, hend⟩ := guarded_next h
  · exact ⟨rfl, rfl, rfl⟩
  have hsat := hp (hinv.live hi)
  have hrestored {u : State} (hu : Live LegalSession s.enable s.enable u) :
      u.enable = s.enable ∧ u.busOpen = s.busOpen ∧ u.initialized = s.initialized :=
    have ⟨hlegal, hb, he⟩ := hu
    ⟨he, hb.trans hinv.busMatchesEnable.symm, hlegal.initialized.trans hi.symm⟩
  obtain ⟨a, u, hu, rfl⟩ | ⟨e, u, hu, rfl⟩ := hend
  · rw [hu] at hsat; exact hrestored (u := u) hsat
  · rw [hu] at hsat; exact hrestored (u := u) hsat

/-- Settles O56: each diagnostic with its cleanup ends with ENABLE and BUSOPEN at the values it started from
(`Closed.selfTest_sat`, `Closed.sensitivity_sat`, `Closed.noise_sat`), and an uninitialised session changes nothing. -/
theorem diagnosticsRestoreEnable : Obligations.DiagnosticsRestoreEnable := by
  rintro i s t (rfl | rfl | rfl) hinv hexec
  · exact guarded_restores hexec hinv legalSession_closed.selfTest_sat
  · exact guarded_restores hexec hinv legalSession_closed.sensitivity_sat
  · exact guarded_restores hexec hinv legalSession_closed.noise_sat

end Sys2Proof.Machine
end

section
/-! Settles the statements of the host-command family on INIT, TERM and disabling: how an INIT completes or fails, and how a
session is ended or disabled whatever the environment answers (45_host_commands.md R182 to R186). -/

namespace Sys2Proof.Machine

/-! ### INIT -/

/-- The state after INIT's three transactions, whatever the second and third answered: the open has succeeded, the identity
byte is read, and the bus is closed again (R182). -/
def identified (s : State) : State :=
  advance (withBus false s) 3 [.opened true,
    .read s.cfg.dev.regId 1 (if busOkAt s 1 then some [busByteAt s 1 0] else none), .closed (busOkAt s 2)]

section
variable {s : State}

theorem exec_init_of_uninitialized (hi : s.initialized = false) (hb : s.busOpen = false) :
    exec .init s = .next (identifyAndInit s) := by
  simp [exec, execInit, hi, hb]

theorem openEffect_of_fail (h : busOkAt s 0 = false) : openEffect s = advance s 1 [.opened false] := by
  simp only [openEffect, h, Bool.or_false]
  rfl

theorem openEffect_of_ok (h : busOkAt s 0 = true) : openEffect s = advance (withBus true s) 1 [.opened true] := by
  simp only [openEffect, h, Bool.or_true]
  rfl

theorem closeEffect_eq (s : State) : closeEffect s = advance (withBus false s) 1 [.closed (busOkAt s 0)] := rfl

theorem busByteAt_withBus (b : Bool) (s : State) (k i : Nat) : busByteAt (withBus b s) k i = busByteAt s k i := rfl

/-- The identity read past a successful open. -/
theorem readEffect_openEffect (h : busOkAt s 0 = true) :
    readEffect s.cfg.dev.regId 1 (openEffect s) = advance (withBus true s) 2
      [.opened true, .read s.cfg.dev.regId 1 (if busOkAt s 1 then some [busByteAt s 1 0] else none)] := by
  rw [readEffect, openEffect_of_ok h]
  simp [readData, busByteAt_withBus]

/-- The close past the identity read. -/
theorem closeEffect_readEffect_openEffect (h : busOkAt s 0 = true) :
    closeEffect (readEffect s.cfg.dev.regId 1 (openEffect s)) = identified s := by
  rw [closeEffect_eq, readEffect_openEffect h, busOkAt_advance, busOkAt_withBus, withBus_advance, withBus_withBus,
    advance_advance]
  rfl

/-- An INIT whose open fails (R182). -/
theorem identifyAndInit_of_fail (h : busOkAt s 0 = false) :
    identifyAndInit s = respondError .deviceCommunication (advance s 1 [.opened false]) := by
  rw [identifyAndInit, if_neg (ne_true_of_eq_false h), openEffect_of_fail h]

/-- An INIT past its open: a failure of the read or the close first, then the identity byte (R182, R224, R225). -/
theorem identifyAndInit_of_ok (h : busOkAt s 0 = true) : identifyAndInit s =
    if busOkAt s 1 && busOkAt s 2 then
      if busByteAt s 1 0 = s.cfg.chipId then deliver okEmpty (initSession (identified s))
      else respondError .chipIdMismatch (identified s)
    else respondError .deviceCommunication (identified s) := by
  have hread : busOkAt (openEffect s) 0 = busOkAt s 1 := by rw [openEffect_of_ok h, busOkAt_advance, busOkAt_withBus]
  have hclose : busOkAt (readEffect s.cfg.dev.regId 1 (openEffect s)) 0 = busOkAt s 2 := by
    rw [readEffect_openEffect h, busOkAt_advance, busOkAt_withBus]
  have hbyte : readData (openEffect s) 1 0 = busByteAt s 1 0 := by
    rw [readData, openEffect_of_ok h, busByteAt_advance, busByteAt_withBus]
    rfl
  rw [identifyAndInit, if_pos h]
  dsimp only
  rw [closeEffect_readEffect_openEffect h, hread, hclose, hbyte, ite_not]
  cases busOkAt s 1 <;> cases busOkAt s 2 <;> rfl

end

/-- Settles O34: past its three transactions INIT finds the identity byte it expects (`identifyAndInit_of_ok`). -/
theorem initCompletes : Obligations.InitCompletes := by
  intro s hi hb hok hid
  have h1 := hok 1 (by decide)
  have h2 := hok 2 (by decide)
  rw [exec_init_of_uninitialized hi hb, identifyAndInit_of_ok (hok 0 (by decide)), identified, h1, h2, if_pos hid, hid]
  rfl

/-- Settles O35: a failed open ends INIT at once (`identifyAndInit_of_fail`); any other failure is found after the close
(`identifyAndInit_of_ok`). -/
theorem initFailuresChangeNoRegister : Obligations.InitFailuresChangeNoRegister := by
  intro s hi hb
  rw [exec_init_of_uninitialized hi hb]
  refine ⟨fun h0 => ?openFails, fun h0 h1 => ?readFails, fun h0 h1 h2 => ?closeFails, fun hok hid => ?mismatch⟩
  case openFails => rw [identifyAndInit_of_fail h0]; rfl
  case readFails => rw [identifyAndInit_of_ok h0, identified, withBus_self hb, h1]; rfl
  case closeFails => rw [identifyAndInit_of_ok h0, identified, withBus_self hb, h1, h2]; rfl
  case mismatch =>
    have h1 := hok 1 (by decide)
    have h2 := hok 2 (by decide)
    rw [identifyAndInit_of_ok (hok 0 (by decide)), identified, withBus_self hb, h1, h2, if_neg hid]
    rfl

/-! ### Disabling -/

section
variable {s : State}

theorem exec_setEnable_zero_of_enabled (hi : s.initialized = true) (he : s.enable = true) :
    exec (.setEnable 0) s = finish (pDisable.andThen (Proc.pure okEmpty) s) := by
  have hdisable : pSetEnable 0 s = pDisable.andThen (Proc.pure okEmpty) s := by simp [pSetEnable, wantEnable, he]
  exact (guarded_initialized hi).trans (congrArg finish hdisable)

/-- TERM on a disabled session only ends it (R183). -/
theorem pTerm_of_disabled (he : s.enable = false) : pTerm s = .ok okEmpty { s with initialized := false } := by
  rw [pTerm, if_neg (ne_true_of_eq_false he)]
  rfl

/-- TERM on an enabled session whose disable succeeds. -/
theorem pTerm_of_disable_ok {t : State} (he : s.enable = true) (h : pDisable s = .ok () t) :
    pTerm s = .ok okEmpty { t with initialized := false } := by
  rw [pTerm, if_pos he]
  exact Proc.bind_ok (Proc.attempt_ok h)

/-- TERM on an enabled session whose disable fails: the session ends all the same (R183). -/
theorem pTerm_of_disable_err {t : State} {e : ErrKind} (he : s.enable = true) (h : pDisable s = .err e t) :
    pTerm s = .err .deviceCommunication { t with initialized := false } := by
  rw [pTerm, if_pos he]
  exact Proc.bind_ok (Proc.attempt_err h)

/-- A P_DISABLE one of whose transactions fails: both are attempted, and the session is disabled (R186). -/
theorem pDisable_err (hb : s.busOpen = true) (h : (busOkAt s 0 && busOkAt s 1) = false) :
    pDisable s = .err .deviceCommunication (advance (released s) 2 (releaseEvents s (busOkAt s 0) (busOkAt s 1))) :=
  (pDisable_eq hb).trans (if_neg (ne_true_of_eq_false h))

end

/-- Settles O42, by the two ends of P_DISABLE (`pDisable_ok`, `pDisable_err`). -/
theorem disableCompletes : Obligations.DisableCompletes := by
  intro s hi he hb
  rw [exec_setEnable_zero_of_enabled hi he]
  refine ⟨fun hok => ?_, fun hfail => ?_⟩
  · rw [Proc.andThen_ok (pDisable_ok hb hok)]; rfl
  · rw [Proc.andThen_err (pDisable_err hb hfail)]; rfl

/-- Settles O37: on an enabled session TERM follows P_DISABLE to either end (`pDisable_ok`, `pDisable_err`). -/
theorem termEndsSession : Obligations.TermEndsSession := by
  intro s hi
  have hexec : exec .term s = finish (pTerm s) := guarded_initialized hi
  rw [hexec]
  refine ⟨fun he => ?_, fun he hb hok => ?_, fun he hb hfail => ?_⟩
  · rw [pTerm_of_disabled he]; rfl
  · rw [pTerm_of_disable_ok he (pDisable_ok hb hok)]; rfl
  · rw [pTerm_of_disable_err he (pDisable_err hb hfail)]; rfl

end Sys2Proof.Machine
end

section
/-! Settles the statements of the host-command family on settings, read-backs and MEASURE on a disabled session: what is stored,
rejected or answered, and what a failed re-enable leaves (45_host_commands.md R188 to R200, 60_exceptions.md R237). -/

namespace Sys2Proof.Machine

/-! ### Commands that read only -/

/-- A command that only answers: its response is the one change. -/
theorem guarded_pure {s : State} (hi : s.initialized = true) (r : Response) :
    guarded (Proc.pure r) s = .next { s with response := some r } := guarded_initialized hi

/-- Settles O43: the opcodes by the decoder (`decode_append`), the answers by `guarded_pure`, the errors by the guard. -/
theorem gettersAnswer : Obligations.GettersAnswer := by
  intro arg s
  refine ⟨?decoded, fun hi => ?answers, fun hi => ?errors⟩
  case decoded =>
    exact ⟨decode_append .getEnable rfl nofun, decode_append .getDelay rfl nofun, decode_append .getPosition rfl nofun,
      decode_append .getAveraging rfl nofun⟩
  case answers =>
    rw [BitVec.ofNat_toNat, BitVec.ofNat_toNat]
    exact ⟨guarded_pure hi _, guarded_pure hi _, guarded_pure hi _, guarded_pure hi _⟩
  case errors =>
    exact ⟨exec_uninitialized nofun hi, exec_uninitialized nofun hi, exec_uninitialized nofun hi,
      exec_uninitialized nofun hi⟩

/-- Settles O48: zero extension keeps the unsigned value, sign extension the signed one. -/
theorem readbacksAnswer : Obligations.ReadbacksAnswer := by
  intro s hi
  simp only [BitVec.ofNat_toNat]
  exact ⟨guarded_pure hi _, guarded_pure hi _⟩

/-! ### MEASURE on a disabled session -/

theorem pMeasure_of_disabled {s : State} (he : s.enable = false) : pMeasure s = .ok okEmpty (tickClock s) := by
  rw [pMeasure, he]
  rfl

/-- Settles O28: P_MEASURE ends with its clock tick (`pMeasure_of_disabled`). -/
theorem measureDisabledAnswersNoData : Obligations.MeasureDisabledAnswersNoData := by
  intro s hi he
  have hexec : exec .measure s = finish (pMeasure s) := guarded_initialized hi
  rw [hexec, pMeasure_of_disabled he, finish_ok, tickClock]
  split <;> rfl

/-! ### Operands in and out of range -/

theorem delayLegal_iff {arg : Word} : delayLegal arg = true ↔ arg.toNat < 2 ^ 31 :=
  ⟨toNat_lt_of_delayLegal, delayLegal_of_lt⟩

theorem averagingLegal_iff {arg : Word} : averagingLegal arg = true ↔ arg.toNat ≤ 3 := by
  rw [averagingLegal, decide_eq_true_iff, BitVec.le_def]
  rfl

theorem positionLegal_iff {arg : Word} : positionLegal arg = true ↔ arg.toNat ≤ 7 := by
  rw [positionLegal, decide_eq_true_iff, BitVec.le_def]
  rfl

section
variable {arg : Word} {s : State}

theorem pSetDelay_of_legal (h : delayLegal arg = true) : pSetDelay arg s = reapplyIfEnabled { s with delay := arg } :=
  if_pos h

theorem pSetDelay_of_illegal (h : delayLegal arg = false) : pSetDelay arg s = .err .invalidArgument s :=
  if_neg (ne_true_of_eq_false h)

theorem pSetAveraging_of_legal (h : averagingLegal arg = true) :
    pSetAveraging arg s = reapplyIfEnabled { s with avg := BitVec.ofNat 2 arg.toNat } := by
  rw [pSetAveraging, if_pos h, BitVec.ofNat_toNat]

theorem pSetAveraging_of_illegal (h : averagingLegal arg = false) : pSetAveraging arg s = .err .invalidArgument s :=
  if_neg (ne_true_of_eq_false h)

theorem pSetPosition_of_legal (h : positionLegal arg = true) :
    pSetPosition arg s = .ok okEmpty { s with position := BitVec.ofNat 3 arg.toNat } := by
  rw [pSetPosition, if_pos h, BitVec.ofNat_toNat]

theorem pSetPosition_of_illegal (h : positionLegal arg = false) : pSetPosition arg s = .err .invalidArgument s :=
  if_neg (ne_true_of_eq_false h)

/-- On a disabled session there is nothing to apply (R189, R193). -/
theorem reapplyIfEnabled_of_disabled (he : s.enable = false) : reapplyIfEnabled s = .ok okEmpty s :=
  if_neg (ne_true_of_eq_false he)

variable (hi : s.initialized = true)
include hi

theorem exec_setDelay_initialized : exec (.setDelay arg) s = finish (pSetDelay arg s) := guarded_initialized hi

theorem exec_setAveraging_initialized : exec (.setAveraging arg) s = finish (pSetAveraging arg s) := guarded_initialized hi

theorem exec_setPosition_initialized : exec (.setPosition arg) s = finish (pSetPosition arg s) := guarded_initialized hi

end

/-- Settles O44, by the range of the operand. -/
theorem setPositionStores : Obligations.SetPositionStores := by
  intro arg s hi
  rw [exec_setPosition_initialized hi]
  refine ⟨fun hlegal => ?_, fun hillegal => ?_⟩
  · rw [pSetPosition_of_legal (positionLegal_iff.mpr hlegal)]; rfl
  · rw [pSetPosition_of_illegal (by rw [← Bool.not_eq_true, positionLegal_iff]; omega)]; rfl

/-- Settles O45, by the range of the operand; a legal value on a disabled session is stored and not applied
(`reapplyIfEnabled_of_disabled`). -/
theorem settingsStoreOrReject : Obligations.SettingsStoreOrReject := by
  intro arg s hi
  rw [exec_setDelay_initialized hi, exec_setAveraging_initialized hi]
  refine ⟨fun hlegal he => ?delay, fun hillegal => ?badDelay, fun hlegal he => ?level, fun hillegal => ?badLevel⟩
  case delay => rw [pSetDelay_of_legal (delayLegal_iff.mpr hlegal), reapplyIfEnabled_of_disabled (by exact he)]; rfl
  case badDelay => rw [pSetDelay_of_illegal (by rw [← Bool.not_eq_true, delayLegal_iff]; omega)]; rfl
  case level => rw [pSetAveraging_of_legal (averagingLegal_iff.mpr hlegal), reapplyIfEnabled_of_disabled (by exact he)]; rfl
  case badLevel => rw [pSetAveraging_of_illegal (by rw [← Bool.not_eq_true, averagingLegal_iff]; omega)]; rfl

/-! ### A re-enable that may fail -/

/-- DELAY and AVG stand at these values. -/
def SettingsAre (d : Word) (a : BitVec 2) (s : State) : Prop := s.delay = d ∧ s.avg = a

/-- No reload writes DELAY or AVG (10_state.md R38). -/
theorem settingsAre_loadKept (d : Word) (a : BitVec 2) : LoadKept (SettingsAre d a) where
  adv _ _ _ h := h
  bo _ _ h := h
  en _ _ h := h
  c0 _ _ h := h
  c1 _ _ h := h
  rm _ h := h

/-- Where a command ends that applies its setting to an enabled session: the settings as stored, enabled with OK, disabled with
the bus closed on an error. -/
structure ReapplyEnd (s t : State) (r : Response) : Prop where
  settings : SettingsAre s.delay s.avg t
  ok : r.status = 0 → t.enable = true
  failed : r.status ≠ 0 → t.enable = false ∧ t.busOpen = false

/-- Both ends of P_REAPPLY (`Closed.reapply_sat`), told apart by the status delivered. -/
theorem reapplyIfEnabled_ends {s t : State} {r : Response} (hinv : SessionInv s) (hi : s.initialized = true)
    (he : s.enable = true) (h : finish (reapplyIfEnabled s) = .next t) (hr : t.response = some r) : ReapplyEnd s t r := by
  have hkept := (settingsAre_loadKept s.delay s.avg).reapply
  have hlive := hinv.live hi
  rw [he] at hlive
  have hproc : reapplyIfEnabled s = pReapply.andThen (Proc.pure okEmpty) s := if_pos he
  have hend : (reapplyIfEnabled s).Sat (fun a t => a = okEmpty ∧ Live LegalSession true true t)
      (fun _ => Live LegalSession false false) := by
    rw [hproc]
    exact Proc.andThen_sat (legalSession_closed.reapply_sat hlive) fun _ hu => ⟨rfl, hu⟩
  obtain ⟨a, u, hu, rfl⟩ | ⟨e, u, hu, rfl⟩ := finish_next h
  · have hsettings := hkept.ok hu ⟨rfl, rfl⟩
    rw [hu] at hend
    obtain ⟨rfl, _, _, hon⟩ := hend
    obtain rfl := Option.some.inj hr
    exact ⟨hsettings, fun _ => hon, fun hne => absurd rfl hne⟩
  · have hsettings := hkept.err hu ⟨rfl, rfl⟩
    rw [hu] at hend
    obtain ⟨_, hclosed, hoff⟩ := hend
    obtain rfl := Option.some.inj hr
    exact ⟨hsettings, fun hzero => absurd hzero (statusCode_ne_zero e), fun _ => ⟨hoff, hclosed⟩⟩

/-- Settles O47: each command stores its value, and what follows keeps it (`reapplyIfEnabled_ends`). -/
theorem failedReapplyDisables : Obligations.FailedReapplyDisables := by
  intro arg s t r hinv hi he hr
  refine ⟨fun hexec hlegal => ?_, fun hexec hlegal => ?_⟩
  · rw [exec_setDelay_initialized hi, pSetDelay_of_legal (delayLegal_iff.mpr hlegal)] at hexec
    have hstored : SessionInv { s with delay := arg } := { hinv with delayLegal := hlegal }
    obtain ⟨⟨hdelay, _⟩, hok, hfailed⟩ := reapplyIfEnabled_ends hstored hi he hexec hr
    exact ⟨hdelay, hok, hfailed⟩
  · rw [exec_setAveraging_initialized hi, pSetAveraging_of_legal (averagingLegal_iff.mpr hlegal)] at hexec
    have hstored : SessionInv { s with avg := BitVec.ofNat 2 arg.toNat } := { hinv with }
    obtain ⟨⟨_, havg⟩, hok, hfailed⟩ := reapplyIfEnabled_ends hstored hi he hexec hr
    exact ⟨havg, hok, hfailed⟩

end Sys2Proof.Machine
end

section
/-! Settles the statement of the host-command family on statuses: which error kinds each procedure raises, and so which status
each command may answer (45_host_commands.md R210, 60_exceptions.md R231 to R235). -/

namespace Sys2Proof.Machine

/-! ### What a procedure raises -/

/-- Every error the procedure ends with, from any state, is one of these kinds. -/
def Proc.Raises {α : Type} (es : List ErrKind) (p : Proc α) : Prop := ∀ s t e, p s = .err e t → e ∈ es

section
variable {α β : Type} {es : List ErrKind}

/-- A procedure that always ends with a result. -/
theorem Proc.raises_of_ok {p : Proc α} {g : State → α} {f : State → State} (h : ∀ s, p s = .ok (g s) (f s)) :
    p.Raises es := by
  intro s t e he
  cases (h s).symm.trans he

theorem Proc.pure_raises (a : α) : (Proc.pure a).Raises es := Proc.raises_of_ok fun _ => rfl

theorem Proc.modify_raises (f : State → State) : (Proc.modify f).Raises es := Proc.raises_of_ok fun _ => rfl

theorem raise_raises {e : ErrKind} (h : e ∈ es) : (raise e : Proc α).Raises es := by
  rintro s t _ ⟨⟩
  exact h

theorem Proc.ite_raises {c : Prop} [Decidable c] {p q : Proc α} (hp : p.Raises es) (hq : q.Raises es) :
    Proc.Raises es (if c then p else q) := by
  split <;> assumption

/-- A choice made on the state. -/
theorem Proc.branch_raises {c : State → Prop} [∀ s, Decidable (c s)] {p q : State → Proc α} (hp : ∀ s, (p s).Raises es)
    (hq : ∀ s, (q s).Raises es) : Proc.Raises es fun s => if c s then p s s else q s s := by
  intro s
  dsimp only
  split
  · exact hp s s
  · exact hq s s

/-- A sequence raises what its parts raise, the second from what the first answers. -/
theorem Proc.bind_raises_of_returns {Q : β → Prop} {p : Proc β} {q : β → Proc α} (hp : p.Raises es) (hQ : p.Returns Q)
    (hq : ∀ b, Q b → (q b).Raises es) : (p.bind q).Raises es := by
  intro s t e
  unfold Proc.bind
  cases h : p s with
  | ok b u => exact hq b (hQ s u b h) u t e
  | err d u =>
    rintro ⟨⟩
    exact hp s _ _ h
  | fault x => exact nofun

theorem Proc.bind_raises {p : Proc β} {q : β → Proc α} (hp : p.Raises es) (hq : ∀ b, (q b).Raises es) :
    (p.bind q).Raises es :=
  Proc.bind_raises_of_returns (Q := fun _ => True) hp (fun _ _ _ _ => trivial) fun b _ => hq b

theorem Proc.andThen_raises {p : Proc Unit} {q : Proc α} (hp : p.Raises es) (hq : q.Raises es) : (p.andThen q).Raises es :=
  Proc.bind_raises hp fun _ => hq

/-- `try` raises nothing. -/
theorem Proc.attempt_raises (p : Proc α) : p.attempt.Raises es := by
  intro s t e
  unfold Proc.attempt
  cases p s <;> exact nofun

theorem Proc.ignore_raises (p : Proc α) : p.ignore.Raises es :=
  Proc.bind_raises (Proc.attempt_raises p) fun _ => Proc.pure_raises ()

/-- What `try` catches is what the procedure raises. -/
theorem Proc.Raises.caught {p : Proc α} (h : p.Raises es) : p.attempt.Returns fun r => ∀ e, r = .error e → e ∈ es := by
  intro s t r
  unfold Proc.attempt
  cases hp : p s with
  | ok a u => rintro ⟨⟩ e ⟨⟩
  | err e u =>
    rintro ⟨⟩ _ ⟨⟩
    exact h s _ _ hp
  | fault x => exact nofun

theorem reraise_raises {r : Except ErrKind α} (h : ∀ e, r = .error e → e ∈ es) : (reraise r).Raises es := by
  cases r with
  | ok a => exact Proc.pure_raises ()
  | error e => exact raise_raises (h e rfl)

/-- An error inside a cleanup is discarded (R239). -/
theorem Proc.withCleanup_raises {b : Proc α} (hb : b.Raises es) (c : Proc Unit) : (b.withCleanup c).Raises es :=
  Proc.bind_raises_of_returns (Proc.attempt_raises b) hb.caught fun r hr => Proc.bind_raises (Proc.ignore_raises c) fun _ => by
    cases r with
    | ok a => exact Proc.pure_raises a
    | error e => exact raise_raises (hr e rfl)

end

/-! ### Procedures whose transactions may fail -/

section
variable {es : List ErrKind} (hdev : .deviceCommunication ∈ es)
include hdev

/-- The shape of a bus primitive: a precondition, then the environment's answer (20_memory.md R41 to R43). -/
theorem transaction_raises {α : Type} (bad : State → Bool) (f : Fault) (a : State → α) (g : State → State) :
    Proc.Raises es fun s => if bad s then .fault f else if busOkAt s 0 then .ok (a s) (g s)
      else .err .deviceCommunication (g s) := by
  intro s t e h
  dsimp only at h
  split at h
  · cases h
  · split at h <;> cases h
    exact hdev

theorem primBusOpen_raises : primBusOpen.Raises es := transaction_raises hdev State.busOpen _ (fun _ => ()) openEffect

theorem primBusClose_raises : primBusClose.Raises es :=
  transaction_raises hdev (fun s => !s.busOpen) _ (fun _ => ()) closeEffect

theorem primMemRead_raises (a : Byte) (n : Nat) : (primMemRead a n).Raises es :=
  transaction_raises hdev (fun s => !s.busOpen) _ (fun s => readData s n) (readEffect a n)

theorem primMemWrite_raises (a v : Byte) : (primMemWrite a v).Raises es :=
  transaction_raises hdev (fun s => !s.busOpen) _ (fun _ => ()) (writeEffect a v)

theorem writeAll_raises (ws : List (Byte × Byte)) : (writeAll ws).Raises es := by
  induction ws with
  | nil => exact Proc.pure_raises ()
  | cons w ws ih => exact Proc.andThen_raises (primMemWrite_raises hdev w.1 w.2) ih

theorem pContStart_raises : pContStart.Raises es := fun s =>
  Proc.andThen_raises (primMemWrite_raises hdev _ _) (Proc.modify_raises _) s

/-- P_DISABLE raises again what its transactions raised (45_host_commands.md R186). -/
theorem pDisable_raises : pDisable.Raises es := fun s =>
  Proc.bind_raises_of_returns (Proc.attempt_raises _) (primMemWrite_raises hdev _ _).caught (fun _ h1 =>
    Proc.bind_raises_of_returns (Proc.attempt_raises _) (primBusClose_raises hdev).caught fun _ h2 =>
      Proc.andThen_raises (Proc.modify_raises _) <| Proc.andThen_raises (reraise_raises h1) (reraise_raises h2)) s

/-- TERM reports a failed disable as a failure of communication (R183). -/
theorem pTerm_raises : pTerm.Raises es := fun s =>
  Proc.bind_raises (Proc.ite_raises (Proc.attempt_raises _) (Proc.pure_raises _)) (fun e =>
    Proc.andThen_raises (Proc.modify_raises _) (by
      cases e with
      | ok => exact Proc.pure_raises okEmpty
      | error => exact raise_raises hdev)) s

theorem pSample_raises : pSample.Raises es := fun s =>
  Proc.bind_raises (primMemRead_raises hdev _ _) (fun _ => Proc.modify_raises _) s

/-- U_FSM's one transaction is the coil write (43_measurement_fsm.md R138). -/
theorem uFsm_raises (now : Word) : (uFsm now).Raises es := by
  have hcoil : (fsmInitCoil now).Raises es :=
    Proc.branch_raises
      (p := fun s => (primMemWrite s.cfg.dev.regConf s.cfg.dev.valConfRcoil).andThen (Proc.modify (coilDone now)))
      (q := fun _ => Proc.pure ()) (fun _ => Proc.andThen_raises (primMemWrite_raises hdev _ _) (Proc.modify_raises _))
      fun _ => Proc.pure_raises ()
  intro s t e h
  unfold uFsm at h
  split at h
  · exact hcoil s t e h
  split at h
  · cases h
  split at h <;> cases h

section
variable (hbusy : .busy ∈ es)
include hbusy

theorem pSingleShot_raises (ldtc fors : Bool) : (pSingleShot ldtc fors).Raises es := fun s =>
  Proc.andThen_raises (primMemWrite_raises hdev _ _) (Proc.andThen_raises (Proc.modify_raises _) <|
    Proc.andThen_raises (pSample_raises hdev) <|
      Proc.branch_raises (p := fun _ => raise .busy) (q := fun _ => Proc.pure ()) (fun _ => raise_raises hbusy)
        fun _ => Proc.pure_raises ()) s

theorem judgeSample_raises : judgeSample.Raises es :=
  Proc.branch_raises (p := fun _ => raise .busy) (fun _ => raise_raises hbusy) fun _ =>
    Proc.bind_raises (Proc.raises_of_ok timeNow_eq) fun now =>
      Proc.andThen_raises (uFsm_raises hdev now) (Proc.raises_of_ok fun _ => rfl)

theorem pMeasure_raises : pMeasure.Raises es := by
  intro s
  unfold pMeasure
  split
  · exact Proc.pure_raises okEmpty _
  · exact Proc.andThen_raises (pSample_raises hdev)
      (Proc.andThen_raises (Proc.modify_raises _) (judgeSample_raises hdev hbusy)) _

end

/-! ### Procedures that reload the model -/

section
variable (hcal : .calibrationInvalid ∈ es)
include hcal

theorem uCaldec_raises (B : CalBlock) : (uCaldec B).Raises es := by
  have hwrites : ∀ (ws : List (Byte × Byte)) (f : State → State), ((writeAll ws).andThen (Proc.modify f)).Raises es :=
    fun ws f => Proc.andThen_raises (writeAll_raises hdev ws) (Proc.modify_raises f)
  intro s
  unfold uCaldec
  split
  · exact raise_raises hcal s
  split
  · exact hwrites _ _ s
  split
  · exact hwrites _ _ s
  · exact raise_raises hcal s

theorem pResetDecode_raises : pResetDecode.Raises es := fun s =>
  Proc.andThen_raises (primMemWrite_raises hdev _ _) (Proc.andThen_raises (Proc.modify_raises _) <|
    Proc.bind_raises (primMemRead_raises hdev _ _) fun B => Proc.andThen_raises (uCaldec_raises hdev hcal B) <|
      Proc.andThen_raises (primMemWrite_raises hdev _ _) <| Proc.andThen_raises (primMemWrite_raises hdev _ _) <|
        Proc.modify_raises _) s

/-- P_ENABLE returns the failure of its open or of what follows (45_host_commands.md R185). -/
theorem pEnable_raises : pEnable.Raises es :=
  Proc.andThen_raises (primBusOpen_raises hdev) <|
    Proc.bind_raises_of_returns (Proc.attempt_raises _)
      (Proc.andThen_raises (pResetDecode_raises hdev hcal) (pContStart_raises hdev)).caught fun r hr => by
        cases r with
        | ok => exact Proc.modify_raises _
        | error e => exact Proc.andThen_raises (Proc.ignore_raises _) (raise_raises (hr e rfl))

theorem pSetEnable_raises (arg : Word) : (pSetEnable arg).Raises es :=
  Proc.branch_raises (p := fun _ => Proc.pure okEmpty) (fun _ => Proc.pure_raises _) fun _ =>
    Proc.andThen_raises (Proc.ite_raises (pEnable_raises hdev hcal) (pDisable_raises hdev)) (Proc.pure_raises _)

theorem reapplyIfEnabled_raises : reapplyIfEnabled.Raises es :=
  Proc.branch_raises (q := fun _ => Proc.pure okEmpty) (fun _ =>
    Proc.andThen_raises (Proc.andThen_raises (pDisable_raises hdev) (pEnable_raises hdev hcal)) (Proc.pure_raises _))
    fun _ => Proc.pure_raises _

theorem pSetDelay_raises (harg : .invalidArgument ∈ es) (arg : Word) : (pSetDelay arg).Raises es := by
  intro s
  unfold pSetDelay
  split
  · exact reapplyIfEnabled_raises hdev hcal _
  · exact raise_raises harg s

theorem pSetAveraging_raises (harg : .invalidArgument ∈ es) (arg : Word) : (pSetAveraging arg).Raises es := by
  intro s
  unfold pSetAveraging
  split
  · exact reapplyIfEnabled_raises hdev hcal _
  · exact raise_raises harg s

end

end

/-! ### Procedures that judge a sample -/

section
variable {es : List ErrKind}

theorem checkMask_raises (hover : .overflowDetected ∈ es) (hunder : .underflowDetected ∈ es) (m : BitVec 6) :
    (checkMask m).Raises es :=
  Proc.ite_raises (raise_raises hover) (Proc.ite_raises (raise_raises hunder) (Proc.pure_raises ()))

theorem pSetPosition_raises (harg : .invalidArgument ∈ es) (arg : Word) : (pSetPosition arg).Raises es := by
  intro s
  unfold pSetPosition
  split
  · exact Proc.pure_raises okEmpty _
  · exact raise_raises harg s

end

theorem selfTestBody_raises (was : Bool) : (selfTestBody was).Raises (mayRaise .extSelfTest) := by
  have hjudge : judgeDirection.Raises (mayRaise .extSelfTest) := fun s =>
    Proc.andThen_raises (checkMask_raises (by decide) (by decide) _) (Proc.andThen_raises (Proc.modify_raises _) fun t =>
      Proc.ite_raises (raise_raises (by decide)) (Proc.pure_raises _) t) s
  exact Proc.andThen_raises (Proc.ite_raises (Proc.pure_raises ()) (primBusOpen_raises (by decide))) <|
    Proc.andThen_raises (Proc.andThen_raises (pResetDecode_raises (by decide) (by decide))
      (pSingleShot_raises (by decide) (by decide) _ _)) hjudge

theorem sensitivityBody_raises (was : Bool) : (sensitivityBody was).Raises (mayRaise .extSensitivity) := by
  have hshot (ldtc fors : Bool) : (pSingleShot ldtc fors).Raises (mayRaise .extSensitivity) :=
    pSingleShot_raises (by decide) (by decide) ldtc fors
  have hresult (p : Tri (BitVec 16)) (fp : BitVec 6) : (sensResult p fp).Raises (mayRaise .extSensitivity) := fun s =>
    Proc.andThen_raises (Proc.modify_raises _) (Proc.andThen_raises (checkMask_raises (by decide) (by decide) _)
      (Proc.pure_raises _)) s
  have hreload : (primBusOpen.andThen pResetDecode).Raises (mayRaise .extSensitivity) :=
    Proc.andThen_raises (primBusOpen_raises (by decide)) (pResetDecode_raises (by decide) (by decide))
  exact Proc.andThen_raises (Proc.ite_raises (Proc.pure_raises ()) hreload) <|
    Proc.andThen_raises (hshot true false) fun s => Proc.andThen_raises (hshot true true) (hresult _ _) s

theorem noiseBody_raises (was : Bool) : (noiseBody was).Raises (mayRaise .extNoiseTest) :=
  Proc.andThen_raises (Proc.ite_raises (Proc.pure_raises ()) (pEnable_raises (by decide) (by decide))) <|
    Proc.bind_raises (pMeasure_raises (by decide) (by decide)) fun _ => Proc.raises_of_ok fun _ => rfl

/-! ### The status of a command that ends -/

/-- The state's response has a status the command's row allows (R210). -/
def AnswersWithin (i : Instr) (t : State) : Prop := ∀ r, t.response = some r → r.status ∈ statusesOf (mayRaise i)

section
variable {i : Instr}

theorem answersWithin_deliver {r : Response} (h : r.status = 0) (u : State) : AnswersWithin i (deliver r u) := by
  rintro _ ⟨⟩
  exact h ▸ List.mem_cons_self

theorem answersWithin_respondError {e : ErrKind} (h : e ∈ mayRaise i) (u : State) : AnswersWithin i (respondError e u) := by
  rintro _ ⟨⟩
  exact List.mem_cons_of_mem _ (List.mem_map_of_mem h)

/-- A guarded command answers NotInitialized, a success, or what its procedure raises. -/
theorem guarded_answersWithin {p : Proc Response} {s t : State} (h : guarded p s = .next t)
    (hguard : .notInitialized ∈ mayRaise i) (hok : p.Returns fun r => r.status = 0) (herr : p.Raises (mayRaise i)) :
    AnswersWithin i t := by
  obtain ⟨_, rfl⟩ | ⟨_, ⟨a, u, hu, rfl⟩ | ⟨e, u, hu, rfl⟩⟩ := guarded_next h
  · exact answersWithin_respondError hguard s
  · exact answersWithin_deliver (hok s u a hu) u
  · exact answersWithin_respondError (herr s u e hu) u

theorem execInit_answersWithin {s t : State} (h : execInit s = .next t) : AnswersWithin .init t := by
  obtain ⟨_, rfl⟩ | ⟨hi, hb, _⟩ := execInit_next h
  · exact answersWithin_respondError (by decide) s
  obtain rfl := Host.Outcome.next.inj ((exec_init_of_uninitialized hi hb).symm.trans h)
  cases h0 : busOkAt s 0 with
  | false => rw [identifyAndInit_of_fail h0]; exact answersWithin_respondError (by decide) _
  | true =>
    rw [identifyAndInit_of_ok h0]
    split
    · split
      · exact answersWithin_deliver rfl _
      · exact answersWithin_respondError (by decide) _
    · exact answersWithin_respondError (by decide) _

/-- Every command's status is in its row: its errors by what its procedure raises. -/
theorem exec_answersWithin {s t : State} (h : exec i s = .next t) : AnswersWithin i t := by
  have hplain {p : Proc Response} (hg : guarded p s = .next t) (hguard : .notInitialized ∈ mayRaise i)
      (hok : p.Returns IsPlainSuccess) (herr : p.Raises (mayRaise i)) : AnswersWithin i t :=
    guarded_answersWithin hg hguard (fun u v a ha => (hok u v a ha).left) herr
  cases i with
  | init => exact execInit_answersWithin h
  | term => exact hplain h (by decide) pTerm_returns (pTerm_raises (by decide))
  | setEnable arg =>
    exact hplain h (by simp [mayRaise]) (pSetEnable_returns arg)
      (pSetEnable_raises (by simp [mayRaise]) (by simp [mayRaise]) arg)
  | setDelay arg =>
    exact hplain h (by simp [mayRaise]) (pSetDelay_returns arg)
      (pSetDelay_raises (by simp [mayRaise]) (by simp [mayRaise]) (by simp [mayRaise]) arg)
  | setAveraging arg =>
    exact hplain h (by simp [mayRaise]) (pSetAveraging_returns arg)
      (pSetAveraging_raises (by simp [mayRaise]) (by simp [mayRaise]) (by simp [mayRaise]) arg)
  | setPosition arg =>
    exact hplain h (by simp [mayRaise]) (pSetPosition_returns arg) (pSetPosition_raises (by simp [mayRaise]) arg)
  | measure =>
    exact guarded_answersWithin h (by decide) (fun u v a ha => (pMeasure_returns u v a ha).left)
      (pMeasure_raises (by decide) (by decide))
  | extSelfTest =>
    exact hplain h (by decide) (Proc.withCleanup_returns (selfTestBody_returns _))
      (Proc.withCleanup_raises (selfTestBody_raises _) _)
  | extSensitivity =>
    exact hplain h (by decide) (Proc.withCleanup_returns (sensitivityBody_returns _))
      (Proc.withCleanup_raises (sensitivityBody_raises _) _)
  | extNoiseTest =>
    exact hplain h (by decide) (Proc.withCleanup_returns (noiseBody_returns _))
      (Proc.withCleanup_raises (noiseBody_raises _) _)
  | getEnable | getDelay | getPosition | getAveraging | extGetRaw | extGetHwOffset =>
    exact hplain h (by decide) (Proc.pure_returns ⟨rfl, rfl⟩) (Proc.pure_raises _)

end

/-- Settles O58, by what each command's procedure answers and raises (`exec_answersWithin`). -/
theorem statusWithinTable : Obligations.StatusWithinTable := fun _ _ _ r hexec hr => exec_answersWithin hexec r hr

end Sys2Proof.Machine
end

section
/-! Settles the statement of the host-command family on bus traffic: a command that may use the bus takes a transaction whatever
it ends in, and any other leaves the environment alone (45_host_commands.md R181, R211). -/

namespace Sys2Proof.Machine

/-! ### Transactions are only ever added -/

/-- More than `n` transactions have been answered. -/
def DrawnPast (n : Nat) (s : State) : Prop := n < s.busDraws

section
variable (n : Nat)

theorem drawnPast_loadKept : LoadKept (DrawnPast n) where
  adv _ k _ h := Nat.lt_add_right k h
  bo _ _ h := h
  en _ _ h := h
  c0 _ _ h := h
  c1 _ _ h := h
  rm _ h := h

theorem drawnPast_measureKept : MeasureKept (DrawnPast n) where
  adv _ k _ h := Nat.lt_add_right k h
  sm _ _ h := by rw [sampled_eq]; exact h
  q _ h := by rw [quantised_eq]; exact h
  tm _ h := by rw [timed_eq]; exact h
  coil _ _ h _ := h
  nrm _ _ h _ := by rw [fsmNormal_eq]; exact h
  rcd _ _ h _ := by rw [fsmRecordData_eq]; exact h
  tk _ h := by rw [tickClock_eq]; exact h

theorem drawnPast_uLinearAcc (s : State) (d : Tri Int) (h : DrawnPast n s) : DrawnPast n (uLinearAcc d s) := by
  rw [uLinearAcc_eq]; exact h

end

/-! ### Procedures that take a transaction -/

/-- Wherever the procedure ends without a fault, it has taken a transaction. -/
def Proc.Draws {α : Type} (p : Proc α) : Prop := ∀ s, p.EndsWith (DrawnPast s.busDraws) s

section
variable {α β : Type}

/-- It suffices that the first part takes one. -/
theorem Proc.Draws.bind {p : Proc β} {q : β → Proc α} (hp : p.Draws) (hq : ∀ n b, Proc.Stable (DrawnPast n) (q b)) :
    (p.bind q).Draws := fun s => (hp s).bind (hq s.busDraws)

theorem Proc.Draws.andThen {p : Proc Unit} {q : Proc α} (hp : p.Draws) (hq : ∀ n, Proc.Stable (DrawnPast n) q) :
    (p.andThen q).Draws := hp.bind fun n _ => hq n

theorem Proc.Draws.attempt {p : Proc α} (hp : p.Draws) : p.attempt.Draws := fun s => (hp s).attempt

theorem Proc.Draws.withCleanup {b : Proc α} {c : Proc Unit} (hb : b.Draws) (hc : ∀ n, Proc.Stable (DrawnPast n) c) :
    (b.withCleanup c).Draws := fun s => (hb s).withCleanup (hc s.busDraws)

/-- The shape of a bus primitive: a precondition, then the environment's answer (20_memory.md R41 to R43). -/
theorem transaction_draws (bad : State → Bool) (f : Fault) (a : State → α) (g : State → State)
    (hg : ∀ s, (g s).busDraws = s.busDraws + 1) : Proc.Draws fun s => if bad s then .fault f
      else if busOkAt s 0 then .ok (a s) (g s) else .err .deviceCommunication (g s) := by
  intro s t
  have hdrawn : DrawnPast s.busDraws (g s) := (Nat.lt_succ_self _).trans_eq (hg s).symm
  dsimp only
  split
  · exact ⟨nofun, nofun⟩
  split
  · refine ⟨?_, nofun⟩
    rintro _ ⟨⟩
    exact hdrawn
  · refine ⟨nofun, ?_⟩
    rintro _ ⟨⟩
    exact hdrawn

end

theorem primBusOpen_draws : primBusOpen.Draws :=
  transaction_draws State.busOpen _ (fun _ => ()) openEffect fun _ => rfl

theorem primMemRead_draws (a : Byte) (n : Nat) : (primMemRead a n).Draws :=
  transaction_draws (fun s => !s.busOpen) _ (fun s => readData s n) (readEffect a n) fun _ => rfl

theorem primMemWrite_draws (a v : Byte) : (primMemWrite a v).Draws :=
  transaction_draws (fun s => !s.busOpen) _ (fun _ => ()) (writeEffect a v) fun _ => rfl

theorem pDisable_draws : pDisable.Draws := fun s =>
  Proc.Draws.bind (primMemWrite_draws _ _).attempt (fun n _ =>
    have hkept := (drawnPast_loadKept n).toBusKept
    Proc.bind_stable (Proc.attempt_stable hkept.closeBus) fun _ =>
      Proc.andThen_stable (Proc.modify_stable (g := fun u => { u with enable := false }) fun _ h => h)
        (Proc.andThen_stable (reraise_stable _ _) (reraise_stable _ _))) s

theorem pEnable_draws : pEnable.Draws :=
  primBusOpen_draws.andThen fun n =>
    have hkept := drawnPast_loadKept n
    Proc.bind_stable (Proc.attempt_stable (Proc.andThen_stable hkept.resetDecode (pContStart_stable hkept.adv))) fun r => by
      cases r with
      | ok => exact Proc.modify_stable fun _ h => h
      | error k => exact Proc.andThen_stable (Proc.ignore_stable hkept.toBusKept.closeBus) (raise_stable _ k)

theorem pResetDecode_draws : pResetDecode.Draws := fun s =>
  (primMemWrite_draws _ _).andThen (fun n =>
    have hkept := drawnPast_loadKept n
    Proc.andThen_stable (primSleep_stable hkept.adv _) <| Proc.bind_stable (primMemRead_stable hkept.adv _ _) fun B =>
      Proc.andThen_stable (hkept.caldec B) <| Proc.andThen_stable (primMemWrite_stable hkept.adv _ _) <|
        Proc.andThen_stable (primMemWrite_stable hkept.adv _ _) (Proc.modify_stable hkept.rm)) s

theorem pSample_draws : pSample.Draws := fun s =>
  (primMemRead_draws _ _).bind (fun n _ => Proc.modify_stable fun u h => (drawnPast_measureKept n).sm u _ h) s

theorem pSingleShot_draws (ldtc fors : Bool) : (pSingleShot ldtc fors).Draws := fun s =>
  (primMemWrite_draws _ _).andThen (fun n =>
    have hkept := (drawnPast_measureKept n).toSampleKept
    Proc.andThen_stable (primSleep_stable hkept.adv _) <| Proc.andThen_stable hkept.sample <|
      Proc.branch_stable (p := fun _ => raise .busy) (q := fun _ => Proc.pure ()) (fun _ _ => raise_stable _ _)
        fun _ _ => Proc.pure_stable _ _) s

theorem pReapply_draws : pReapply.Draws := pDisable_draws.andThen fun n => (drawnPast_loadKept n).enable

/-! ### The commands' procedures that take a transaction -/

/-- The end of P_MEASURE leaves alone what the pipeline does (45_host_commands.md R197, steps 5 to 8). -/
theorem PipelineKept.judge {I : State → Prop} (h : PipelineKept I) : Proc.Stable I judgeSample := by
  have htime : Proc.Stable I timeNow := by
    intro s t hs
    rw [timeNow_eq]
    exact Proc.answer_stable (g := nowOf) h.tm s t hs
  have hfsm (now : Word) : Proc.Stable I (uFsm now) := h.fsm (fun a v s _ u hu => primMemWrite_mstate a v s u hu) now
  exact Proc.branch_stable (p := fun _ => raise .busy) (fun _ _ => raise_stable I _) fun _ _ =>
    Proc.bind_stable htime fun now => Proc.andThen_stable (hfsm now) (Proc.answer_stable fun _ hs => hs)

section
variable {arg : Word} {s : State}

theorem pTerm_draws (he : s.enable = true) : pTerm.EndsWith (DrawnPast s.busDraws) s := by
  have hdisable : (if s.enable then pDisable.attempt else Proc.pure (.ok ())).EndsWith (DrawnPast s.busDraws) s := by
    rw [if_pos he]
    exact pDisable_draws.attempt s
  refine hdisable.bind fun e => Proc.andThen_stable (Proc.modify_stable fun _ h => h) ?_
  cases e with
  | ok => exact Proc.pure_stable _ okEmpty
  | error => exact raise_stable _ _

theorem pSetEnable_draws (h : wantEnable arg ≠ s.enable) : (pSetEnable arg).EndsWith (DrawnPast s.busDraws) s := by
  have htoggle : (if wantEnable arg then pEnable else pDisable).Draws := by
    split
    · exact pEnable_draws
    · exact pDisable_draws
  have hproc : pSetEnable arg s = _ := if_neg h
  intro t
  rw [hproc]
  exact htoggle.andThen (fun _ => Proc.pure_stable _ okEmpty) s t

theorem reapplyIfEnabled_draws (he : s.enable = true) : reapplyIfEnabled.EndsWith (DrawnPast s.busDraws) s := by
  have hproc : reapplyIfEnabled s = _ := if_pos he
  intro t
  rw [hproc]
  exact pReapply_draws.andThen (fun _ => Proc.pure_stable _ okEmpty) s t

theorem pSetDelay_draws (he : s.enable = true) (h : delayLegal arg = true) :
    (pSetDelay arg).EndsWith (DrawnPast s.busDraws) s := by
  intro t
  rw [pSetDelay_of_legal h]
  exact reapplyIfEnabled_draws (s := { s with delay := arg }) he t

theorem pSetAveraging_draws (he : s.enable = true) (h : averagingLegal arg = true) :
    (pSetAveraging arg).EndsWith (DrawnPast s.busDraws) s := by
  intro t
  rw [pSetAveraging_of_legal h]
  exact reapplyIfEnabled_draws (s := { s with avg := BitVec.ofNat 2 arg.toNat }) he t

theorem pMeasure_draws (he : s.enable = true) : pMeasure.EndsWith (DrawnPast s.busDraws) s := by
  have hproc : pMeasure s = _ := if_neg (by rw [he]; decide)
  intro t
  rw [hproc, ← tickClock_busDraws s]
  refine pSample_draws.andThen (fun n => ?_) (tickClock s) t
  have hkept := (drawnPast_measureKept n).toPipelineKept
  exact Proc.andThen_stable (Proc.modify_stable hkept.q) hkept.judge

/-- Nothing, then a procedure. -/
theorem Proc.pure_andThen {β : Type} (q : Proc β) : (Proc.pure ()).andThen q = q := rfl

/-- On an enabled session nothing goes before the reload (44_self_test_controller.md R160). -/
theorem selfTestBody_true :
    selfTestBody true = (pResetDecode.andThen (pSingleShot false false)).andThen judgeDirection := by
  rw [selfTestBody, if_pos rfl, Proc.pure_andThen]

/-- On an enabled session the model is not reloaded (R162). -/
theorem sensitivityBody_true : sensitivityBody true = twoShots := by
  rw [sensitivityBody, if_pos rfl, Proc.pure_andThen]

theorem selfTestBody_draws (was : Bool) : (selfTestBody was).Draws := by
  have hshot (n : Nat) : Proc.Stable (DrawnPast n) (pSingleShot false false) :=
    (drawnPast_measureKept n).toSampleKept.shot _ _
  have hjudge (n : Nat) : Proc.Stable (DrawnPast n) judgeDirection := judgeDirection_stable fun _ h => h
  cases was with
  | true => rw [selfTestBody_true]; exact (pResetDecode_draws.andThen hshot).andThen hjudge
  | false =>
    exact primBusOpen_draws.andThen fun n =>
      Proc.andThen_stable (Proc.andThen_stable (drawnPast_loadKept n).resetDecode (hshot n)) (hjudge n)

theorem sensResult_stable {I : State → Prop} (h : ∀ u d, I u → I (uLinearAcc d u)) (p : Tri (BitVec 16)) (fp : BitVec 6) :
    Proc.Stable I (sensResult p fp) :=
  Proc.read_stable (p := fun u => (Proc.modify (uLinearAcc (shotDifference p u.lastRaw))).andThen <|
    (checkMask (fp ||| u.ovf)).andThen <| Proc.pure _) fun _ _ => Proc.andThen_stable (Proc.modify_stable fun u hu => h u _ hu)
      (Proc.andThen_stable (checkMask_stable _) (Proc.pure_stable I _))

theorem sensitivityBody_draws (was : Bool) : (sensitivityBody was).Draws := by
  have hsecond (n : Nat) : Proc.Stable (DrawnPast n) fun u =>
      ((pSingleShot true true).andThen (sensResult u.lastRaw u.ovf)) u :=
    Proc.read_stable fun _ _ => Proc.andThen_stable ((drawnPast_measureKept n).toSampleKept.shot true true)
      (sensResult_stable (drawnPast_uLinearAcc n) _ _)
  cases was with
  | true => rw [sensitivityBody_true]; exact (pSingleShot_draws true false).andThen hsecond
  | false =>
    exact (primBusOpen_draws.andThen fun n => (drawnPast_loadKept n).resetDecode).andThen fun n =>
      twoShots_stable (drawnPast_measureKept n).toSampleKept (drawnPast_uLinearAcc n)

/-- On an enabled session the noise test starts with the measurement, on a disabled one with the enable. -/
theorem noiseBody_draws : (noiseBody s.enable).EndsWith (DrawnPast s.busDraws) s := by
  have hanswer (n : Nat) : Proc.Stable (DrawnPast n) fun s => Res.ok (noiseResponse s.lastRaw) s :=
    Proc.answer_stable fun _ h => h
  cases he : s.enable with
  | true => exact (pMeasure_draws he).bind fun _ => hanswer _
  | false =>
    exact pEnable_draws.andThen (fun n => Proc.bind_stable (drawnPast_measureKept n).measure fun _ => hanswer n) s

/-- INIT on an uninitialised session takes one transaction or three (R182). -/
theorem identifyAndInit_draws (s : State) : DrawnPast s.busDraws (identifyAndInit s) := by
  have hthree : s.busDraws < s.busDraws + 3 := by omega
  cases h : busOkAt s 0 with
  | false => rw [identifyAndInit_of_fail h]; exact Nat.lt_succ_self s.busDraws
  | true =>
    rw [identifyAndInit_of_ok h]
    split
    · split <;> exact hthree
    · exact hthree

end

/-- A command that may use the bus does (R211). -/
theorem exec_draws {i : Instr} {s t : State} (h : exec i s = .next t) (hbus : mayUseBus i s = true) :
    DrawnPast s.busDraws t := by
  have hends {p : Proc Response} (hg : guarded p s = .next t) (hi : s.initialized = true)
      (hp : p.EndsWith (DrawnPast s.busDraws) s) : DrawnPast s.busDraws t := guarded_endsWith hg hi hp fun _ _ hu => hu
  have hrestore (n : Nat) : Proc.Stable (DrawnPast n) (pRestore s.enable) := (drawnPast_loadKept n).toBusKept.restore _
  cases i with
  | init =>
    obtain ⟨hi, _⟩ | ⟨hi, hb, _⟩ := execInit_next h
    · exact absurd hi (by simpa [mayUseBus] using hbus)
    · obtain rfl := Host.Outcome.next.inj ((exec_init_of_uninitialized hi hb).symm.trans h)
      exact identifyAndInit_draws s
  | term =>
    obtain ⟨hi, he⟩ : s.initialized = true ∧ s.enable = true := by simpa [mayUseBus] using hbus
    exact hends h hi (pTerm_draws he)
  | setEnable arg =>
    obtain ⟨hi, hne⟩ : s.initialized = true ∧ wantEnable arg ≠ s.enable := by simpa [mayUseBus] using hbus
    exact hends h hi (pSetEnable_draws hne)
  | setDelay arg =>
    obtain ⟨⟨hi, he⟩, hlegal⟩ : (s.initialized = true ∧ s.enable = true) ∧ delayLegal arg = true := by
      simpa [mayUseBus] using hbus
    exact hends h hi (pSetDelay_draws he hlegal)
  | setAveraging arg =>
    obtain ⟨⟨hi, he⟩, hlegal⟩ : (s.initialized = true ∧ s.enable = true) ∧ averagingLegal arg = true := by
      simpa [mayUseBus] using hbus
    exact hends h hi (pSetAveraging_draws he hlegal)
  | measure =>
    obtain ⟨hi, he⟩ : s.initialized = true ∧ s.enable = true := by simpa [mayUseBus] using hbus
    exact hends h hi (pMeasure_draws he)
  | extSelfTest => exact hends h hbus ((selfTestBody_draws _).withCleanup hrestore s)
  | extSensitivity => exact hends h hbus ((sensitivityBody_draws _).withCleanup hrestore s)
  | extNoiseTest =>
    exact hends h hbus (noiseBody_draws.withCleanup (noiseCleanup_stable (drawnPast_loadKept _).toBusKept _))
  | setPosition | getEnable | getDelay | getPosition | getAveraging | extGetRaw | extGetHwOffset => cases hbus

/-! ### Commands that leave the environment alone -/

/-- No answer is consumed and no interaction recorded from the first state to the second. -/
structure Quiet (s t : State) : Prop where
  busDraws : t.busDraws = s.busDraws
  busScript : t.busScript = s.busScript
  trace : t.trace = s.trace
  clockScript : t.clockScript = s.clockScript
  clockDraws : t.clockDraws = s.clockDraws

theorem Quiet.refl (s : State) : Quiet s s := ⟨rfl, rfl, rfl, rfl, rfl⟩

theorem Quiet.deliver {s t : State} (h : Quiet s t) (r : Response) : Quiet s (deliver r t) := { h with }

theorem Quiet.tickClock (s : State) : Quiet s (tickClock s) := by
  rw [tickClock_eq]
  exact { Quiet.refl s with }

/-- A procedure whose end is known. -/
theorem Proc.endsWith_of_ok {α : Type} {P : State → Prop} {p : Proc α} {s u : State} {a : α} (h : p s = .ok a u)
    (hu : P u) : p.EndsWith P s := by
  intro t
  rw [h]
  exact Proc.pure_stable P a u t hu

theorem Proc.endsWith_of_err {α : Type} {P : State → Prop} {p : Proc α} {s u : State} {e : ErrKind} (h : p s = .err e u)
    (hu : P u) : p.EndsWith P s := by
  intro t
  rw [h]
  exact raise_stable P e u t hu

section
variable {arg : Word} {s : State}

/-- A delay is applied only if legal and on an enabled session (R189). -/
theorem pSetDelay_quiet (h : (s.enable && delayLegal arg) = false) : (pSetDelay arg).EndsWith (Quiet s) s := by
  cases hlegal : delayLegal arg with
  | false => exact Proc.endsWith_of_err (pSetDelay_of_illegal hlegal) (.refl s)
  | true =>
    have he : s.enable = false := by simpa [hlegal] using h
    have hproc := (pSetDelay_of_legal hlegal).trans (reapplyIfEnabled_of_disabled (s := { s with delay := arg }) he)
    exact Proc.endsWith_of_ok hproc { Quiet.refl s with }

/-- So is an averaging level (R193). -/
theorem pSetAveraging_quiet (h : (s.enable && averagingLegal arg) = false) :
    (pSetAveraging arg).EndsWith (Quiet s) s := by
  cases hlegal : averagingLegal arg with
  | false => exact Proc.endsWith_of_err (pSetAveraging_of_illegal hlegal) (.refl s)
  | true =>
    have he : s.enable = false := by simpa [hlegal] using h
    have hproc := (pSetAveraging_of_legal hlegal).trans
      (reapplyIfEnabled_of_disabled (s := { s with avg := BitVec.ofNat 2 arg.toNat }) he)
    exact Proc.endsWith_of_ok hproc { Quiet.refl s with }

end

/-- An initialised session's command that may not use the bus takes nothing from the environment (R211). -/
theorem exec_quiet_of_initialized {i : Instr} {s t : State} (h : exec i s = .next t) (hbus : mayUseBus i s = false)
    (hi : s.initialized = true) : Quiet s t := by
  have hends {p : Proc Response} (hg : guarded p s = .next t) (hp : p.EndsWith (Quiet s) s) : Quiet s t :=
    guarded_endsWith hg hi hp fun r _ hu => hu.deliver r
  cases i with
  | init =>
    obtain ⟨_, rfl⟩ | ⟨hi', _⟩ := execInit_next h
    · exact (Quiet.refl s).deliver _
    · exact absurd hi (ne_true_of_eq_false hi')
  | term =>
    have he : s.enable = false := by simpa [mayUseBus, hi] using hbus
    exact hends h (Proc.endsWith_of_ok (pTerm_of_disabled he) { Quiet.refl s with })
  | setEnable arg =>
    have hheld : wantEnable arg = s.enable := by simpa [mayUseBus, hi] using hbus
    exact hends h (Proc.endsWith_of_ok (if_pos hheld) (.refl s))
  | setDelay arg =>
    exact hends h (pSetDelay_quiet (by simpa [mayUseBus, hi] using hbus))
  | setAveraging arg =>
    exact hends h (pSetAveraging_quiet (by simpa [mayUseBus, hi] using hbus))
  | measure =>
    have he : s.enable = false := by simpa [mayUseBus, hi] using hbus
    exact hends h (Proc.endsWith_of_ok (pMeasure_of_disabled he) (.tickClock s))
  | setPosition arg =>
    exact hends h ((pSetPosition_stable fun _ hu => { hu with }).endsWith (.refl s))
  | extSelfTest | extSensitivity | extNoiseTest => exact absurd hi (ne_true_of_eq_false hbus)
  | getEnable | getDelay | getPosition | getAveraging | extGetRaw | extGetHwOffset =>
    exact hends h ((Proc.pure_stable _ _).endsWith (.refl s))

theorem exec_quiet {i : Instr} {s t : State} (h : exec i s = .next t) (hbus : mayUseBus i s = false) : Quiet s t := by
  cases hi : s.initialized with
  | true => exact exec_quiet_of_initialized h hbus hi
  | false =>
    have hinit : i ≠ .init := by
      rintro rfl
      simp [mayUseBus, hi] at hbus
    obtain rfl := Host.Outcome.next.inj ((exec_uninitialized hinit hi).symm.trans h)
    exact (Quiet.refl s).deliver _

/-- Settles O59, by the two halves `exec_draws` and `exec_quiet`. -/
theorem busTrafficOnlyWhereStated : Obligations.BusTrafficOnlyWhereStated := by
  intro i s t hexec
  refine ⟨exec_draws hexec, fun hbus => ?_⟩
  have h := exec_quiet hexec hbus
  exact ⟨h.busDraws, h.busScript, h.trace, h.clockScript, h.clockDraws⟩

end Sys2Proof.Machine
end

section
/-! Settles the statement of the exceptions family: the lifecycle guard, which answers before the argument is looked at
(60_exceptions.md R221, R222). -/

namespace Sys2Proof.Machine

/-- INIT on an initialised session is refused before any transaction (60_exceptions.md R222). -/
theorem execInit_initialized {s : State} (h : s.initialized = true) :
    execInit s = .next (respondError .alreadyInitialized s) := if_pos h

/-- Settles O36: an uninitialised session is caught by the guard alone, INIT by its own first test. -/
theorem lifecycleGuard : Obligations.LifecycleGuard := by
  intro i s
  refine ⟨fun hi h => ?command, fun h => ?unknownExt, fun hi h => ?init⟩
  case command => exact exec_uninitialized hi h
  case unknownExt => exact guarded_uninitialized h
  case init =>
    subst hi
    exact execInit_initialized h

end Sys2Proof.Machine
end
